-- ==== Sys2Proof/Word.lean ====
section
/-! DEFINITION. The two word types of the wire: a byte, and a number of two bytes that wraps. -/

namespace Sys2Proof

/-- One byte of a frame, a message, an answer or the settings image. -/
abbrev Byte := BitVec 8

/-- A number of two bytes: sheet numbers, order numbers, sequence numbers, masks, setting keys. -/
abbrev Word := BitVec 16

end Sys2Proof
end

