-- ==== Sys2Proof/Config.lean ====
section
/-! DEFINITION. The fixed sizes and times of the part. The spec leaves no value open that a command
uses, so there is no free value here. -/

namespace Sys2Proof.Config

/-- The sheet table holds up to 16 entries (R7). -/
def tableSize : Nat := 16

/-- A lane's defect list holds up to 24 records (R12). -/
def defectsPerLane : Nat := 24

/-- The largest unscanned count (R20). -/
def unscannedMax : Nat := 255

/-- The largest value of the three scan counters (R6). -/
def counterMax : Nat := 65535

/-- The largest consecutive-fault count of a lane (R22). -/
def laneCountMax : Nat := 15

/-- The order queue holds up to 8 waiting orders (R101). -/
def queueSize : Nat := 8

/-- The finished list holds up to 4 entries (R113). -/
def finishedSize : Nat := 4

/-- The largest occurrence count and later-faults count (R171, R172). -/
def faultCountMax : Nat := 255

/-- The port holds the first 32 bytes of a frame for decoding (R149). -/
def heldBytes : Nat := 32

/-- An output has positions 0 to 31 (R147). -/
def outputBytes : Nat := 32

/-- The select timeout, in milliseconds (R152). -/
def selectTimeoutMs : Nat := 20

/-- The debounce time, in milliseconds (R181). -/
def debounceMs : Nat := 8

/-- The longest wait for the EEPROM to acknowledge again after a byte, in milliseconds (R195). -/
def ackWaitMs : Nat := 20

/-- The periods of CLK_IN for which LRST_N must hold low to be taken (R198). -/
def lrstPeriods : Nat := 2

/-- The length of the settings image, in bytes (R166, R192). -/
def imageBytes : Nat := 215

/-- The format byte of the settings image (R166). -/
def imageFormat : Byte := 0x01

/-- The EEPROM's seven-bit device address (R166). -/
def eepromDevice : BitVec 7 := 0x50

end Sys2Proof.Config
end

