-- ==== Sys2Proof/Syntax.lean ====
section
/-! DEFINITION. The commands of the block: one constructor for each row of the table, with the fields
the spec gives the row. A scan message carries its fields (R3 to R5, R165); a station frame carries
the port that took it, its tag and its argument fields (Table 7-9, log 7); an event carries its
subject. -/

namespace Sys2Proof

/-- The three station ports (Table 7-1): L of the line controller, S of the stacker controller, P of the
press controller. -/
inductive Port where
  | line | stacker | press
deriving DecidableEq, Repr

/-- The seven defect types (R3). -/
inductive DefectType where
  | soundKnot | looseKnot | hole | split | pitch | stain | rough
deriving DecidableEq, Repr

/-- The head status of a LANE_DONE (R5). -/
inductive HeadStatus where
  | ok | failed
deriving DecidableEq, Repr

/-- The kinds with which the rise of select rejects a frame (R149). -/
inductive RejectKind where
  | bitCount | length | stuckLow | stuckHigh
deriving DecidableEq, Repr

/-- What a load read from the EEPROM (R192): an acknowledge was missing, or the image bytes. -/
inductive LoadRead where
  | noAck
  | image (bytes : List Byte)
deriving DecidableEq, Repr

/-- How a store went at the EEPROM (R195): an acknowledge was missing, a wait passed 20 ms, or the
image was read back. -/
inductive StoreResult where
  | noAck
  | waitPassed
  | readBack (bytes : List Byte)
deriving DecidableEq, Repr

/-- The commands. -/
inductive Instr where
  /-- R3: a well-formed DEFECT message. -/
  | defect (lane : Fin 4) (tag : Byte) (zone : Fin 8) (type : DefectType) (size : BitVec 10)
  /-- R4: a well-formed SAMPLE message; the temperature is the signed byte as received. -/
  | sample (lane : Fin 4) (tag : Byte) (zone : Fin 8) (raw : BitVec 12) (thickness : BitVec 13) (temp : Byte)
  /-- R5: a well-formed LANE_DONE message. -/
  | laneDone (lane : Fin 4) (tag : Byte) (status : HeadStatus)
  /-- R2: a completed message that failed the checks; none of its fields is used. -/
  | badMessage
  /-- R15: the scan window of the SCANNING entry with this tag expires. -/
  | scanWindowExpiry (tag : Byte)
  /-- R32: grading of the entry the engine holds completes. -/
  | gradingComplete
  /-- R128: the hold timer of the order in this slot expires. -/
  | holdTimerExpiry (slot : Fin 2)
  /-- R182: the debounced level of this line changes from inactive to active. -/
  | lineEdge (line : Fin 8)
  /-- R147: the falling edge of the port's select. -/
  | selectFall (port : Port)
  /-- R150: the window ended with a frame rejected for this kind. -/
  | frameRejected (port : Port) (kind : RejectKind)
  /-- R152: select has been low for 20 ms. -/
  | selectTimeout (port : Port)
  /-- R153, case 1: byte 0 is no command code; a frame of one byte has no tag. -/
  | unknownCommand (port : Port) (code : Byte) (tag : Option Byte)
  /-- R156. -/
  | fetch (port : Port) (tag : Byte)
  /-- R157. -/
  | status (port : Port) (tag : Byte)
  /-- R168. -/
  | readEvents (port : Port) (tag : Byte) (clear : Word)
  /-- R169. -/
  | setAttnMask (port : Port) (tag : Byte) (mask : Word)
  /-- R96: the bin field has seven bits and the depth nine (Table 7-9). -/
  | readBin (port : Port) (tag : Byte) (bin : BitVec 7) (depth : BitVec 9)
  /-- R158. -/
  | readSheet (port : Port) (tag : Byte) (sheet : Word) (part : Byte) (selector : Byte)
  /-- R159. -/
  | portReset (port : Port) (tag : Byte)
  /-- R17. -/
  | start (port : Port) (tag : Byte)
  /-- R18. -/
  | stop (port : Port) (tag : Byte)
  /-- R190. -/
  | setSetting (port : Port) (tag : Byte) (key : Word) (value : BitVec 32)
  /-- R191. -/
  | getSetting (port : Port) (tag : Byte) (key : Word)
  /-- R194. -/
  | loadSettings (port : Port) (tag : Byte)
  /-- R195. -/
  | storeSettings (port : Port) (tag : Byte)
  /-- R73. -/
  | binState (port : Port) (tag : Byte) (bin : Byte) (requested : Byte)
  /-- R24. -/
  | laneUp (port : Port) (tag : Byte) (lane : Byte)
  /-- R174. -/
  | readFaults (port : Port) (tag : Byte) (clear : Word)
  /-- R183. -/
  | readLines (port : Port) (tag : Byte) (clear : Byte)
  /-- R198. -/
  | resetLine (port : Port) (tag : Byte)
  /-- R78 (WHERE). -/
  | whereTo (port : Port) (tag : Byte)
  /-- R85. -/
  | dropped (port : Port) (tag : Byte) (sheet : Word)
  /-- R87, R88. -/
  | divert (port : Port) (tag : Byte) (sheet : Word)
  /-- R95. -/
  | emptied (port : Port) (tag : Byte) (bin : Byte)
  /-- R100: the ply bytes are those the port holds, one per ply, at most 26 (R149). -/
  | order (port : Port) (tag : Byte) (number : Word) (cls : Byte) (count : Byte) (plies : List Byte)
  /-- R102, R131. -/
  | cancel (port : Port) (tag : Byte) (number : Word)
  /-- R122. -/
  | nextPly (port : Port) (tag : Byte) (number : Word)
  /-- R124, R133. -/
  | taken (port : Port) (tag : Byte) (number : Word)
  /-- R127, R134. -/
  | uncall (port : Port) (tag : Byte) (number : Word)
  /-- R114. -/
  | orderStatus (port : Port) (tag : Byte) (number : Word)
  /-- R198: LRST_N falls; `stays` says whether it is still low when the next command is taken (log 5). -/
  | lineReset (stays : Bool)
  /-- R197: PORST_N goes low. -/
  | powerOnReset
  /-- R192: PORST_N rises. -/
  | powerOnLoad
  /-- R193: the end of a load, with what the EEPROM gave. -/
  | loadEnd (read : LoadRead)
  /-- R195: the end of a store, with what the EEPROM gave. -/
  | storeEnd (result : StoreResult)
  /-- R181: the debounced level of this line changes from active to inactive. -/
  | debouncedLevelInactive (line : Fin 8)
deriving DecidableEq, Repr

/-- One character received on the scan link (R1): its byte, and whether its stop bit was there. -/
structure RxChar where
  byte   : Byte
  framed : Bool
deriving DecidableEq, Repr

/-- What a port has received in the present window (Table 7-3). -/
structure Shift where
  /-- bits received -/
  bits    : Nat
  /-- the bits of the byte being received, the latest in bit 0 -/
  acc     : Byte
  /-- the first 32 bytes, in order -/
  held    : List Byte
  /-- every byte so far is 00h -/
  allLow  : Bool
  /-- every byte so far is FFh -/
  allHigh : Bool
deriving DecidableEq, Repr

end Sys2Proof
end

