-- ==== Sys2Proof/WellFormed.lean ====
section
/-! DEFINITION. Which commands can arrive. Most operands are typed so that every value can; the checks
below say the rest. -/

namespace Sys2Proof

/-- The command codes of Table 7-8. -/
def knownCodes : List Byte :=
  [0x01, 0x02, 0x03, 0x04, 0x05, 0x06, 0x07,
   0x10, 0x11, 0x12, 0x13, 0x14, 0x15, 0x16, 0x17, 0x18, 0x19, 0x1A,
   0x20, 0x21, 0x22, 0x23, 0x30, 0x31, 0x32, 0x33, 0x34, 0x35]

/-- A command that the block can be given: an UNKNOWN_COMMAND names no known code and, being no frame
of bytes 00h or of bytes FFh alone, has a tag when its code is one of these (R149, R153); an ORDER
carries one byte per ply, of which the port holds 26 (R149, R161); a load that was acknowledged
throughout has read 215 bytes, and so has a store's read-back (R192, R195). -/
def Instr.wellFormed : Instr → Bool
  | .unknownCommand _ code tag =>
      !knownCodes.contains code && (tag.isSome || (code != 0x00 && code != 0xFF))
  | .order _ _ _ _ count plies => plies.length == min count.toNat 26
  | .loadEnd (.image bytes) => bytes.length == Config.imageBytes
  | .storeEnd (.readBack bytes) => bytes.length == Config.imageBytes
  | _ => true

end Sys2Proof
end

