-- ==== Sys2Proof/Decode.lean ====
section
/-! DEFINITION. The wire: how a port classifies and reads a frame (section 7.3, Tables 7-8 and 7-9),
how the scan receiver checks and reads a message (R2, R165), and the writers of both. The opcode
table gives bits for no row, so no table word spells a command (log 21). -/

namespace Sys2Proof

/-- The command that a table word spells: the table gives no row any bits, so there is none (log 21). -/
def decodeTableWord (_nbits _w : Nat) : Option Instr := none

/-! ## Bytes -/

/-- Byte k of a frame or a message; the frames and messages read have all the bytes asked for. -/
def byteAt (f : List Byte) (k : Nat) : Byte := f.getD k 0

/-- The number of two bytes at k, high byte first (R163). -/
def wordAt (f : List Byte) (k : Nat) : Word := byteAt f k ++ byteAt f (k + 1)

/-- The two bytes of a number, high byte first (R163). -/
def wordBytes (w : Word) : List Byte := [w.extractLsb' 8 8, w.extractLsb' 0 8]

/-- The bits of a byte as they travel, most significant first (Table 7-2). -/
def byteBits (b : Byte) : List Bool :=
  [b.getLsbD 7, b.getLsbD 6, b.getLsbD 5, b.getLsbD 4, b.getLsbD 3, b.getLsbD 2, b.getLsbD 1, b.getLsbD 0]

/-! ## Frames -/

/-- Nothing received yet: the state at the falling edge of select. -/
def Shift.fresh : Shift := { bits := 0, acc := 0, held := [], allLow := true, allHigh := true }

/-- One bit taken at a rising clock edge (R146); the eighth bit of a byte completes it. -/
def Shift.clock (h : Shift) (bit : Bool) : Shift :=
  let acc := (h.acc <<< 1) ||| (if bit then 1 else 0)
  if (h.bits + 1) % 8 = 0 then
    { bits := h.bits + 1
      acc := 0
      held := if h.held.length < Config.heldBytes then h.held ++ [acc] else h.held
      allLow := h.allLow && acc == 0x00
      allHigh := h.allHigh && acc == 0xFF }
  else { h with bits := h.bits + 1, acc := acc }

/-- A whole frame clocked in from the falling edge of select, most significant bit of each byte first. -/
def Shift.ofBytes (f : List Byte) : Shift := (f.flatMap byteBits).foldl Shift.clock Shift.fresh

/-- The frame length of the command that byte 0 names (Table 7-8), none for an unknown code. An ORDER
takes its length from byte 5, and one with fewer than six bytes has no length it could match. -/
def frameLength (f : List Byte) : Option Nat :=
  let code := byteAt f 0
  if !knownCodes.contains code then none
  else if code = 0x01 then some 32
  else if code = 0x06 then some 6
  else if code = 0x12 then some 8
  else if code = 0x30 then some (match f[5]? with | some c => 6 + c.toNat | none => 0)
  else some 4

/-- What the rise of select makes of a window (R149). -/
inductive FrameClass where
  | noFrame
  | rejected (kind : RejectKind)
  | accepted
deriving DecidableEq, Repr

/-- R149, its cases in order. -/
def Shift.classify (h : Shift) : FrameClass :=
  if h.bits = 0 then .noFrame
  else if h.bits % 8 ≠ 0 then .rejected .bitCount
  else if h.allLow then .rejected .stuckLow
  else if h.allHigh then .rejected .stuckHigh
  else match frameLength h.held with
    | some n => if h.bits / 8 = n then .accepted else .rejected .length
    | none => .accepted

/-- The command of an accepted frame, its arguments read as Table 7-9 gives them. -/
def readFrame (p : Port) (f : List Byte) : Instr :=
  let tag := byteAt f 1
  match (byteAt f 0).toNat with
  | 0x01 => .fetch p tag
  | 0x02 => .status p tag
  | 0x03 => .readEvents p tag (wordAt f 2)
  | 0x04 => .setAttnMask p tag (wordAt f 2)
  | 0x05 => .readBin p tag ((byteAt f 2).extractLsb' 0 7) ((byteAt f 2).extractLsb' 7 1 ++ byteAt f 3)
  | 0x06 => .readSheet p tag (wordAt f 2) (byteAt f 4) (byteAt f 5)
  | 0x07 => .portReset p tag
  | 0x10 => .start p tag
  | 0x11 => .stop p tag
  | 0x12 => .setSetting p tag (wordAt f 2) (wordAt f 4 ++ wordAt f 6)
  | 0x13 => .getSetting p tag (wordAt f 2)
  | 0x14 => .loadSettings p tag
  | 0x15 => .storeSettings p tag
  | 0x16 => .binState p tag (byteAt f 2) (byteAt f 3)
  | 0x17 => .laneUp p tag (byteAt f 2)
  | 0x18 => .readFaults p tag (wordAt f 2)
  | 0x19 => .readLines p tag (byteAt f 3)
  | 0x1A => .resetLine p tag
  | 0x20 => .whereTo p tag
  | 0x21 => .dropped p tag (wordAt f 2)
  | 0x22 => .divert p tag (wordAt f 2)
  | 0x23 => .emptied p tag (byteAt f 2)
  | 0x30 => .order p tag (wordAt f 2) (byteAt f 4) (byteAt f 5) (f.drop 6)
  | 0x31 => .cancel p tag (wordAt f 2)
  | 0x32 => .nextPly p tag (wordAt f 2)
  | 0x33 => .taken p tag (wordAt f 2)
  | 0x34 => .uncall p tag (wordAt f 2)
  | 0x35 => .orderStatus p tag (wordAt f 2)
  | _ => .unknownCommand p (byteAt f 0) f[1]?

/-- The command that a window on port p ends with at the rise of select: none for no frame (R149). -/
def decodeFrame (p : Port) (h : Shift) : Option Instr :=
  match h.classify with
  | .noFrame => none
  | .rejected kind => some (.frameRejected p kind)
  | .accepted => some (readFrame p h.held)

/-- A frame that the command is read from, its ignored bytes 00h (Tables 7-8, 7-9): none for a command
that no frame spells. An ORDER of more than 26 plies is filled up with bytes that no port holds, and an
unknown command that has a tag with one byte more, so that it is no frame of bytes 00h or FFh alone. -/
def frameOf : Instr → Option (Port × List Byte)
  | .unknownCommand p code none => some (p, [code])
  | .unknownCommand p code (some tag) => some (p, [code, tag, 0x55])
  | .fetch p tag => some (p, [0x01, tag] ++ List.replicate 30 0)
  | .status p tag => some (p, [0x02, tag, 0, 0])
  | .readEvents p tag clear => some (p, [0x03, tag] ++ wordBytes clear)
  | .setAttnMask p tag mask => some (p, [0x04, tag] ++ wordBytes mask)
  | .readBin p tag bin depth =>
      some (p, [0x05, tag, depth.extractLsb' 8 1 ++ bin, depth.extractLsb' 0 8])
  | .readSheet p tag sheet part selector => some (p, [0x06, tag] ++ wordBytes sheet ++ [part, selector])
  | .portReset p tag => some (p, [0x07, tag, 0, 0])
  | .start p tag => some (p, [0x10, tag, 0, 0])
  | .stop p tag => some (p, [0x11, tag, 0, 0])
  | .setSetting p tag key value =>
      some (p, [0x12, tag] ++ wordBytes key ++ wordBytes (value.extractLsb' 16 16) ++ wordBytes (value.extractLsb' 0 16))
  | .getSetting p tag key => some (p, [0x13, tag] ++ wordBytes key)
  | .loadSettings p tag => some (p, [0x14, tag, 0, 0])
  | .storeSettings p tag => some (p, [0x15, tag, 0, 0])
  | .binState p tag bin requested => some (p, [0x16, tag, bin, requested])
  | .laneUp p tag lane => some (p, [0x17, tag, lane, 0])
  | .readFaults p tag clear => some (p, [0x18, tag] ++ wordBytes clear)
  | .readLines p tag clear => some (p, [0x19, tag, 0, clear])
  | .resetLine p tag => some (p, [0x1A, tag, 0, 0])
  | .whereTo p tag => some (p, [0x20, tag, 0, 0])
  | .dropped p tag sheet => some (p, [0x21, tag] ++ wordBytes sheet)
  | .divert p tag sheet => some (p, [0x22, tag] ++ wordBytes sheet)
  | .emptied p tag bin => some (p, [0x23, tag, bin, 0])
  | .order p tag number cls count plies =>
      some (p, [0x30, tag] ++ wordBytes number ++ [cls, count] ++ plies ++
        List.replicate (count.toNat - plies.length) 0)
  | .cancel p tag number => some (p, [0x31, tag] ++ wordBytes number)
  | .nextPly p tag number => some (p, [0x32, tag] ++ wordBytes number)
  | .taken p tag number => some (p, [0x33, tag] ++ wordBytes number)
  | .uncall p tag number => some (p, [0x34, tag] ++ wordBytes number)
  | .orderStatus p tag number => some (p, [0x35, tag] ++ wordBytes number)
  | .defect _ _ _ _ _ => none
  | .sample _ _ _ _ _ _ => none
  | .laneDone _ _ _ => none
  | .badMessage => none
  | .scanWindowExpiry _ => none
  | .gradingComplete => none
  | .holdTimerExpiry _ => none
  | .lineEdge _ => none
  | .selectFall _ => none
  | .frameRejected _ _ => none
  | .selectTimeout _ => none
  | .lineReset _ => none
  | .powerOnReset => none
  | .powerOnLoad => none
  | .loadEnd _ => none
  | .storeEnd _ => none
  | .debouncedLevelInactive _ => none

/-! ## Scan messages -/

/-- The defect type of a code (Table 7-10). -/
def DefectType.ofCode : Nat → Option DefectType
  | 0 => some .soundKnot
  | 1 => some .looseKnot
  | 2 => some .hole
  | 3 => some .split
  | 4 => some .pitch
  | 5 => some .stain
  | 6 => some .rough
  | _ => none

/-- The code of a defect type (Table 7-10). -/
def DefectType.code : DefectType → Nat
  | .soundKnot => 0
  | .looseKnot => 1
  | .hole => 2
  | .split => 3
  | .pitch => 4
  | .stain => 5
  | .rough => 6

/-- The head status of a code (R165). -/
def HeadStatus.ofCode : Nat → Option HeadStatus
  | 0 => some .ok
  | 1 => some .failed
  | _ => none

/-- The code of a head status (R165). -/
def HeadStatus.code : HeadStatus → Nat
  | .ok => 0
  | .failed => 1

/-- The zone of four bits: a value from 8 to 15 is a zone above 7 (R165). -/
def zoneOf (n : Nat) : Option (Fin 8) := if h : n < 8 then some ⟨n, h⟩ else none

/-- The lane in bits 1..0 of byte 0 (R165). -/
def laneOf (b : Byte) : Fin 4 := ⟨b.toNat % 4, Nat.mod_lt _ (by decide)⟩

/-- The byte sum modulo 256 (R2). -/
def byteSum (m : List Byte) : Nat := (m.map BitVec.toNat).sum % 256

/-- The fields of eight bytes whose sum is right (Table 7-14), none where a field is unknown (R2). -/
def readFields (m : List Byte) : Option Instr :=
  let b := byteAt m
  let lane := laneOf (b 0)
  match (b 0).toNat / 16 with
  | 1 => do
    let zone ← zoneOf ((b 2).toNat / 16)
    let type ← DefectType.ofCode ((b 2).toNat % 16)
    return .defect lane (b 1) zone type ((b 3).extractLsb' 0 2 ++ b 4)
  | 2 => do
    let zone ← zoneOf ((b 2).toNat / 16)
    return .sample lane (b 1) zone ((b 2).extractLsb' 0 4 ++ b 3) ((b 4).extractLsb' 0 5 ++ b 5) (b 6)
  | 3 => do
    let status ← HeadStatus.ofCode (b 2).toNat
    return .laneDone lane (b 1) status
  | _ => none

/-- The command of a completed message: a bad message unless every test of R2 holds. -/
def readMessage (m : List RxChar) : Instr :=
  let bytes := m.map RxChar.byte
  if m.length = 8 ∧ m.all RxChar.framed ∧ byteSum bytes = 0 then (readFields bytes).getD .badMessage
  else .badMessage

/-- Seven bytes and the check byte that brings their sum to zero (R2, R165). -/
def withCheck (m : List Byte) : List Byte := m ++ [BitVec.ofNat 8 (256 - byteSum m)]

/-- The eight bytes of a scan message, its ignored bits and bytes 0 (Table 7-14): none for a command
that no well-formed message spells. -/
def messageOf : Instr → Option (List Byte)
  | .defect lane tag zone type size =>
      some (withCheck [BitVec.ofNat 8 (0x10 + lane.val), tag, BitVec.ofNat 8 (zone.val * 16 + type.code),
        (size.extractLsb' 8 2).setWidth 8, size.extractLsb' 0 8, 0, 0])
  | .sample lane tag zone raw thickness temp =>
      some (withCheck [BitVec.ofNat 8 (0x20 + lane.val), tag,
        BitVec.ofNat 4 zone.val ++ raw.extractLsb' 8 4, raw.extractLsb' 0 8,
        (thickness.extractLsb' 8 5).setWidth 8, thickness.extractLsb' 0 8, temp])
  | .laneDone lane tag status =>
      some (withCheck [BitVec.ofNat 8 (0x30 + lane.val), tag, BitVec.ofNat 8 status.code, 0, 0, 0, 0])
  | _ => none

end Sys2Proof
end

