-- ==== Sys2Proof/Machine/Types.lean ====
section
/-! DEFINITION. The names of the spec's data: grades, bin classes, dispositions, records, result codes
and states. Their codes on the wire are in Codes.lean. -/

namespace Sys2Proof.Machine

/-- The four grades, best first (R49). -/
inductive Grade where
  | a | b | c | d
deriving DecidableEq, Repr

/-- The seven bin classes (R49, Table 4-1). -/
inductive BinClass where
  | grade (g : Grade)
  | patch | redry | reinspect
deriving DecidableEq, Repr

/-- The eight dispositions (R52): a bin class, or REJECT, which has none. -/
inductive Disposition where
  | bin (k : BinClass)
  | reject
deriving DecidableEq, Repr

/-- MISSING_LANE_POLICY (R55). -/
inductive Policy where
  | whole | lane
deriving DecidableEq, Repr

/-- The functions of a discrete line (Table 9-1). -/
inductive LineFunction where
  | off | outLineHold | outFault | outOrderReady | inGeneral
  | outBinFull (b : Fin 8)
  | inBinEmptied (b : Fin 8)
deriving DecidableEq, Repr

/-- The states of the intake (Table 1-4). -/
inductive Intake where
  | stopped | running | suspended
deriving DecidableEq, Repr

/-- The causes of a missing lane (Table 1-2). -/
inductive MissingCause where
  | timeout | overflow | head | down
deriving DecidableEq, Repr

/-- The lane states (Table 1-3). -/
inductive LaneState where
  | waiting | opened | done
  | missing (cause : MissingCause)
deriving DecidableEq, Repr

/-- A stored defect (Table 1-2). -/
structure Defect where
  zone : Fin 8
  type : DefectType
  size : Nat
deriving DecidableEq, Repr

/-- A stored sample (Table 1-2); the temperature is the clamped one (R4). -/
structure Sample where
  raw       : Nat
  thickness : Nat
  temp      : Int
deriving DecidableEq, Repr

/-- The states of a bin (Table 4-3). -/
inductive BinMode where
  | offline | opened | closed
deriving DecidableEq, Repr

/-- The class of an order (Table 5-1). -/
inductive OrderClass where
  | normal | remake
deriving DecidableEq, Repr

/-- A ply entry (Table 5-2). -/
structure Ply where
  grade      : Grade
  substitute : Bool
deriving DecidableEq, Repr

/-- An order record (Table 5-1); its ply count is the length of its ply list. -/
structure Order where
  number : Word
  cls    : OrderClass
  plies  : List Ply
deriving DecidableEq, Repr

/-- Why an active order was aborted (Table 5-7). -/
inductive AbortCause where
  | timedOut | cancelled
deriving DecidableEq, Repr

/-- The outcomes of a finished order (R112). -/
inductive Finish where
  | complete
  | aborted (cause : AbortCause)
deriving DecidableEq, Repr

/-- The states of an active order (Table 5-8). -/
inductive ActiveState where
  | planned | drawing | stalled
  | closing (cause : AbortCause)
deriving DecidableEq, Repr

/-- One ply of an active order: its entry, its planned bin or none, and whether it is taken (Table 5-7). -/
structure ActivePly where
  ply   : Ply
  bin   : Option (Fin 8)
  taken : Bool
deriving DecidableEq, Repr

/-- An active order in its slot (Table 5-7, Table 6-2). -/
structure Active where
  slot      : Fin 2
  number    : Word
  cls       : OrderClass
  plies     : List ActivePly
  state     : ActiveState
  called    : Option Nat
  withdrawn : Option Nat
  /-- the milliseconds left, none when stopped (R128) -/
  hold      : Option Nat
  seq       : Word
deriving DecidableEq, Repr

/-- An entry of the finished list (R113). -/
structure Finished where
  number  : Word
  outcome : Finish
deriving DecidableEq, Repr

/-- The result codes (Table 7-5). -/
inductive ResultCode where
  | ok | clamped | wait | retry | refused | badArgument | noRight | unknownCommand | duplicate
  | queueFull | noSuchOrder | notCalled | late | withdrawn | outOfOrder | notFound | noEntry
deriving DecidableEq, Repr

/-- An answer in the buffer (R155). -/
structure Answer where
  tag     : Byte
  code    : ResultCode
  payload : List Byte
deriving DecidableEq, Repr

/-- The kinds of frame error (Table 7-3). -/
inductive FrameError where
  | none
  | rejected (kind : RejectKind)
  | selectTimeout
deriving DecidableEq, Repr

/-- A port's window (R146, R147, R152): select high; select low with the output fixed at its fall and
the milliseconds left to the select timeout; select low after the timeout; select low since
PORST_N was low. -/
inductive Window where
  | idle
  | opened (status : Byte) (answer : Option Answer) (left : Nat)
  | expired
  | ignored
deriving DecidableEq, Repr

/-- The state of one station port (Table 7-3), with its attention mask and its event flags (R167, R169). -/
structure PortState where
  window    : Window
  shift     : Shift
  /-- the level at the clock pin, high or not, which the master applies (R146, log 6) -/
  sck       : Bool
  /-- the output bits presented after the first, one at each falling clock edge of the window (R146) -/
  sent      : Nat
  answer    : Option Answer
  frameErr  : Bool
  lastError : FrameError
  mask      : Word
  flags     : Word
deriving DecidableEq, Repr

/-- The event flags of Table 8-1 but LINE_RESET, which line reset alone sets. -/
inductive Event where
  | missed | laneFaulted | laneDown | badMessage | holdChanged | settingsDone | faultRaised
  | binChanged | headReady | admitted | stalled | resumed | withdrawn | finished
deriving DecidableEq, Repr

/-- The fault kinds (Table 8-2). -/
inductive FaultKind where
  | settingsInvalid | storeFailed | syncLost | outOfOrder | laneDown
deriving DecidableEq, Repr

/-- The pending flag and the occurrence count of one kind (Table 8-3). -/
structure FaultEntry where
  pending : Bool
  count   : Nat
deriving DecidableEq, Repr

/-- The first-fault record (Table 8-3). -/
structure FirstFault where
  kind  : FaultKind
  sheet : Word
  later : Nat
deriving DecidableEq, Repr

/-- A lane health record (section 1.8). -/
structure LaneHealth where
  count : Nat
  down  : Bool
deriving DecidableEq, Repr

/-- The retired tag, with the tag of the first entry to open after the removal that set it (R16, log 15). -/
structure Retired where
  tag  : Byte
  heir : Option Byte
deriving DecidableEq, Repr

/-- One discrete line beside its settings (section 9.2). -/
structure Line where
  /-- the level applied at the pin from outside -/
  pin       : Bool
  /-- none for an OFF or output line (R181) -/
  debounced : Option Bool
  /-- the milliseconds for which the inverted pin level has differed from the debounced one -/
  differ    : Nat
  latch     : Bool
  /-- the level, active or not, of a change of the debounced level that was pending when the line took a new
  function or inversion, and that does not occur (R184, log 19) -/
  lapsed    : Option Bool
deriving DecidableEq, Repr

/-- The operation of the settings store (Table 10-1). -/
inductive Operation where
  | idle | loading | storing
deriving DecidableEq, Repr

/-- Where the part stands on the EEPROM bus in a load or a store (R166, R192, R195; log 23). -/
inductive Bus where
  /-- no transfer is in progress -/
  | idle
  /-- the sequential read: so many of its four bytes sent and acknowledged, and the bytes read since -/
  | reading (sent : Nat) (bytes : List Byte)
  /-- the transaction that writes one image byte: so many of its four bytes sent and acknowledged -/
  | writing (index : Nat) (sent : Nat)
  /-- the wait for the acknowledge after one image byte, with the milliseconds waited -/
  | waiting (index : Nat) (waited : Nat)
deriving DecidableEq, Repr

/-- What the part does next on the EEPROM bus (R166). -/
inductive BusAct where
  /-- it sends this byte, and an acknowledge is due -/
  | send (byte : Byte)
  /-- it reads a byte, and acknowledges it or not -/
  | receive (acknowledge : Bool)
deriving DecidableEq, Repr

/-- What reaches the pins below the level of the table's commands (log 2). -/
inductive Input where
  /-- R1: one character on the scan link -/
  | scanChar (c : RxChar)
  /-- R1: the scan link has been idle for two character times -/
  | scanIdle
  /-- R146: select of a port falls -/
  | selectFall (port : Port)
  /-- R146: the clock of a port goes high, with the bit on its data input -/
  | clockRise (port : Port) (bit : Bool)
  /-- R146: the clock of a port goes low -/
  | clockFall (port : Port)
  /-- R149: select of a port rises -/
  | selectRise (port : Port)
  /-- R181: the level at a line's pin -/
  | pin (line : Fin 8) (high : Bool)
  /-- R198: LRST_N goes low and holds low for so many periods of CLK_IN -/
  | lrstFall (periods : Nat)
  /-- R198: LRST_N rises -/
  | lrstRise
  /-- R197: PORST_N goes low -/
  | porstFall
  /-- R197: PORST_N rises -/
  | porstRise
  /-- R166: the bit after a byte that the part sent on the EEPROM bus: acknowledged or not -/
  | busAck (acked : Bool)
  /-- R166: a byte that the EEPROM put on its bus -/
  | busData (byte : Byte)
  /-- one millisecond passes -/
  | ms
deriving DecidableEq, Repr

end Sys2Proof.Machine
end

