-- ==== Sys2Proof/Machine/Bank.lean ====
section
/-! DEFINITION. A fixed number of like things as plain data: four lanes, eight bins, lines or zones, one
value per grade, per defect type, per port, per fault kind. -/

namespace Sys2Proof.Machine

/-- One value for each of lanes 0 to 3. -/
structure Quad (α : Type) where
  (v0 v1 v2 v3 : α)
deriving DecidableEq, Repr

/-- One value for each of bins, lines or zones 0 to 7. -/
structure Oct (α : Type) where
  (v0 v1 v2 v3 v4 v5 v6 v7 : α)
deriving DecidableEq, Repr

/-- One value for each grade. -/
structure PerGrade (α : Type) where
  (a b c d : α)
deriving DecidableEq, Repr

/-- One value for each defect type. -/
structure PerType (α : Type) where
  (soundKnot looseKnot hole split pitch stain rough : α)
deriving DecidableEq, Repr

/-- One value for each station port. -/
structure PerPort (α : Type) where
  (line stacker press : α)
deriving DecidableEq, Repr

/-- One value for each fault kind. -/
structure PerFault (α : Type) where
  (settingsInvalid storeFailed syncLost outOfOrder laneDown : α)
deriving DecidableEq, Repr

/-- The numbers of the lanes, lowest first. -/
def fourLanes : List (Fin 4) := [0, 1, 2, 3]

/-- The numbers of the bins, lines or zones, lowest first. -/
def eight : List (Fin 8) := [0, 1, 2, 3, 4, 5, 6, 7]

/-- The fault kinds in the order of their codes (Table 8-2). -/
def faultKinds : List FaultKind := [.settingsInvalid, .storeFailed, .syncLost, .outOfOrder, .laneDown]

/-- The value of one lane. -/
def Quad.get {α : Type} (q : Quad α) : Fin 4 → α
  | 0 => q.v0
  | 1 => q.v1
  | 2 => q.v2
  | 3 => q.v3

/-- The bank with the value of one lane replaced. -/
def Quad.set {α : Type} (q : Quad α) (i : Fin 4) (v : α) : Quad α :=
  match i with
  | 0 => { q with v0 := v }
  | 1 => { q with v1 := v }
  | 2 => { q with v2 := v }
  | 3 => { q with v3 := v }

/-- The bank of a function's values. -/
def Quad.of {α : Type} (f : Fin 4 → α) : Quad α := ⟨f 0, f 1, f 2, f 3⟩

/-- The value of one bin, line or zone. -/
def Oct.get {α : Type} (o : Oct α) : Fin 8 → α
  | 0 => o.v0
  | 1 => o.v1
  | 2 => o.v2
  | 3 => o.v3
  | 4 => o.v4
  | 5 => o.v5
  | 6 => o.v6
  | 7 => o.v7

/-- The bank with the value of one bin, line or zone replaced. -/
def Oct.set {α : Type} (o : Oct α) (i : Fin 8) (v : α) : Oct α :=
  match i with
  | 0 => { o with v0 := v }
  | 1 => { o with v1 := v }
  | 2 => { o with v2 := v }
  | 3 => { o with v3 := v }
  | 4 => { o with v4 := v }
  | 5 => { o with v5 := v }
  | 6 => { o with v6 := v }
  | 7 => { o with v7 := v }

/-- The bank of a function's values. -/
def Oct.of {α : Type} (f : Fin 8 → α) : Oct α := ⟨f 0, f 1, f 2, f 3, f 4, f 5, f 6, f 7⟩

/-- The value of one grade. -/
def PerGrade.get {α : Type} (q : PerGrade α) : Grade → α
  | .a => q.a
  | .b => q.b
  | .c => q.c
  | .d => q.d

/-- The bank with the value of one grade replaced. -/
def PerGrade.set {α : Type} (q : PerGrade α) (g : Grade) (v : α) : PerGrade α :=
  match g with
  | .a => { q with a := v }
  | .b => { q with b := v }
  | .c => { q with c := v }
  | .d => { q with d := v }

/-- The value of one defect type. -/
def PerType.get {α : Type} (q : PerType α) : DefectType → α
  | .soundKnot => q.soundKnot
  | .looseKnot => q.looseKnot
  | .hole => q.hole
  | .split => q.split
  | .pitch => q.pitch
  | .stain => q.stain
  | .rough => q.rough

/-- The bank with the value of one defect type replaced. -/
def PerType.set {α : Type} (q : PerType α) (t : DefectType) (v : α) : PerType α :=
  match t with
  | .soundKnot => { q with soundKnot := v }
  | .looseKnot => { q with looseKnot := v }
  | .hole => { q with hole := v }
  | .split => { q with split := v }
  | .pitch => { q with pitch := v }
  | .stain => { q with stain := v }
  | .rough => { q with rough := v }

/-- The value of one port. -/
def PerPort.get {α : Type} (q : PerPort α) : Port → α
  | .line => q.line
  | .stacker => q.stacker
  | .press => q.press

/-- The bank with the value of one port replaced. -/
def PerPort.set {α : Type} (q : PerPort α) (p : Port) (v : α) : PerPort α :=
  match p with
  | .line => { q with line := v }
  | .stacker => { q with stacker := v }
  | .press => { q with press := v }

/-- The bank of a function's values. -/
def PerPort.of {α : Type} (f : Port → α) : PerPort α := ⟨f .line, f .stacker, f .press⟩

/-- The value of one fault kind. -/
def PerFault.get {α : Type} (q : PerFault α) : FaultKind → α
  | .settingsInvalid => q.settingsInvalid
  | .storeFailed => q.storeFailed
  | .syncLost => q.syncLost
  | .outOfOrder => q.outOfOrder
  | .laneDown => q.laneDown

/-- The bank with the value of one fault kind replaced. -/
def PerFault.set {α : Type} (q : PerFault α) (k : FaultKind) (v : α) : PerFault α :=
  match k with
  | .settingsInvalid => { q with settingsInvalid := v }
  | .storeFailed => { q with storeFailed := v }
  | .syncLost => { q with syncLost := v }
  | .outOfOrder => { q with outOfOrder := v }
  | .laneDown => { q with laneDown := v }

/-- The bank of a function's values. -/
def PerFault.of {α : Type} (f : FaultKind → α) : PerFault α :=
  ⟨f .settingsInvalid, f .storeFailed, f .syncLost, f .outOfOrder, f .laneDown⟩

end Sys2Proof.Machine
end

