-- ==== Sys2Proof/Machine/Codes.lean ====
section
/-! DEFINITION. The numbers that stand for the spec's names on the wire and in settings (Tables 7-5, 7-10,
8-2, 9-1), and how numbers stand in bytes (R163). -/

namespace Sys2Proof.Machine

/-! ## Bytes -/

/-- A number of one byte. -/
def byteOf (n : Nat) : Byte := BitVec.ofNat 8 n

/-- A number of two bytes, high byte first (R163). -/
def bytesOf (n : Nat) : List Byte := [byteOf (n / 256), byteOf n]

/-- Flags in one byte, flag 0 in bit 0 (R163). -/
def flagByte (flags : List Bool) : Byte :=
  byteOf (flags.foldr (fun b n => b.toNat + 2 * n) 0)

/-- A list of bytes filled up with 00h to a length. -/
def padded (n : Nat) (bytes : List Byte) : List Byte := bytes ++ List.replicate (n - bytes.length) 0

/-- A count raised by one, stopping at the top of its range. -/
def satSucc (max n : Nat) : Nat := min max (n + 1)

/-! ## Codes of Table 7-10 -/

/-- The code of a grade. -/
def Grade.code : Grade → Nat
  | .a => 0
  | .b => 1
  | .c => 2
  | .d => 3

/-- The grade of a code. -/
def Grade.ofCode : Nat → Option Grade
  | 0 => some .a
  | 1 => some .b
  | 2 => some .c
  | 3 => some .d
  | _ => none

/-- The code of a bin class. -/
def BinClass.code : BinClass → Nat
  | .grade g => g.code
  | .patch => 4
  | .redry => 5
  | .reinspect => 6

/-- The bin class of a code. -/
def BinClass.ofCode : Nat → Option BinClass
  | 0 => some (.grade .a)
  | 1 => some (.grade .b)
  | 2 => some (.grade .c)
  | 3 => some (.grade .d)
  | 4 => some .patch
  | 5 => some .redry
  | 6 => some .reinspect
  | _ => none

/-- The code of a disposition. -/
def Disposition.code : Disposition → Nat
  | .bin k => k.code
  | .reject => 7

/-- The code of none, for an as-is grade, a placed class, a placement or a planned bin. -/
def noneCode : Nat := 0x0F

/-- The code of an intake state. -/
def Intake.code : Intake → Nat
  | .stopped => 0
  | .running => 1
  | .suspended => 2

/-- The code of a lane state. -/
def LaneState.code : LaneState → Nat
  | .waiting => 0
  | .opened => 1
  | .done => 2
  | .missing .timeout => 3
  | .missing .overflow => 4
  | .missing .head => 5
  | .missing .down => 6

/-- The code of a bin state. -/
def BinMode.code : BinMode → Nat
  | .offline => 0
  | .opened => 1
  | .closed => 2

/-- The bin state of a code. -/
def BinMode.ofCode : Nat → Option BinMode
  | 0 => some .offline
  | 1 => some .opened
  | 2 => some .closed
  | _ => none

/-- The code of an order class. -/
def OrderClass.code : OrderClass → Nat
  | .normal => 0
  | .remake => 1

/-- The order class of a code. -/
def OrderClass.ofCode : Nat → Option OrderClass
  | 0 => some .normal
  | 1 => some .remake
  | _ => none

/-- The code of the order state WAITING. -/
def waitingCode : Nat := 0

/-- The code of an active order's state. -/
def ActiveState.code : ActiveState → Nat
  | .planned => 1
  | .drawing => 2
  | .stalled => 3
  | .closing _ => 4

/-- The code of the order state FINISHED. -/
def finishedCode : Nat := 5

/-- The code of the order state CLOSING. -/
def closingCode : Nat := 4

/-- The code of an abort cause. -/
def AbortCause.code : AbortCause → Nat
  | .timedOut => 1
  | .cancelled => 2

/-- The code of an outcome. -/
def Finish.code : Finish → Nat
  | .complete => 0
  | .aborted c => c.code

/-- The code of an absent outcome, abort cause or first-fault kind. -/
def absentCode : Nat := 0xFF

/-- The code of a frame error kind. -/
def FrameError.code : FrameError → Nat
  | .none => 0
  | .rejected .bitCount => 1
  | .rejected .length => 2
  | .rejected .stuckLow => 3
  | .rejected .stuckHigh => 4
  | .selectTimeout => 5

/-- A result code (Table 7-5). -/
def ResultCode.code : ResultCode → Nat
  | .ok => 0x00
  | .clamped => 0x01
  | .wait => 0x02
  | .retry => 0x03
  | .refused => 0x04
  | .badArgument => 0x05
  | .noRight => 0x06
  | .unknownCommand => 0x07
  | .duplicate => 0x08
  | .queueFull => 0x09
  | .noSuchOrder => 0x0A
  | .notCalled => 0x0B
  | .late => 0x0C
  | .withdrawn => 0x0D
  | .outOfOrder => 0x0E
  | .notFound => 0x0F
  | .noEntry => 0x10

/-- The code of a fault kind (Table 8-2). -/
def FaultKind.code : FaultKind → Nat
  | .settingsInvalid => 0
  | .storeFailed => 1
  | .syncLost => 2
  | .outOfOrder => 3
  | .laneDown => 4

/-- The code of a line function (Table 9-1). -/
def LineFunction.code : LineFunction → Nat
  | .off => 0x00
  | .outLineHold => 0x01
  | .outFault => 0x02
  | .outOrderReady => 0x03
  | .inGeneral => 0x04
  | .outBinFull b => 0x10 + b.val
  | .inBinEmptied b => 0x20 + b.val

/-- The line function of a code (Table 9-1). -/
def LineFunction.ofCode (n : Nat) : Option LineFunction :=
  if n = 0x00 then some .off
  else if n = 0x01 then some .outLineHold
  else if n = 0x02 then some .outFault
  else if n = 0x03 then some .outOrderReady
  else if n = 0x04 then some .inGeneral
  else if h : 0x10 ≤ n ∧ n < 0x18 then some (.outBinFull ⟨n - 0x10, by omega⟩)
  else if h : 0x20 ≤ n ∧ n < 0x28 then some (.inBinEmptied ⟨n - 0x20, by omega⟩)
  else none

/-- The code of MISSING_LANE_POLICY (Table 10-2). -/
def Policy.code : Policy → Nat
  | .whole => 0
  | .lane => 1

/-- The bin number in a byte (R162): none above 7. -/
def binNumber (n : Nat) : Option (Fin 8) := if h : n < 8 then some ⟨n, h⟩ else none

/-- The lane number in a byte (R162): none above 3. -/
def laneNumber (n : Nat) : Option (Fin 4) := if h : n < 4 then some ⟨n, h⟩ else none

/-! ## Grades in their order -/

/-- The grades from best to worst (R49). -/
def grades : List Grade := [.a, .b, .c, .d]

/-- The next worse grade, none after D. -/
def Grade.worse : Grade → Option Grade
  | .a => some .b
  | .b => some .c
  | .c => some .d
  | .d => none

/-- The grades that a ply of grade g may be filled from, in the order they are looked in: g alone, or g,
g − 1 and so on up to A where substitution is permitted (R99, R103). -/
def Ply.classes (p : Ply) : List Grade :=
  if !p.substitute then [p.grade] else
  match p.grade with
  | .a => [.a]
  | .b => [.b, .a]
  | .c => [.c, .b, .a]
  | .d => [.d, .c, .b, .a]

/-- The worse of two grades, the one that comes later (R49). -/
def Grade.worseOf (g h : Grade) : Grade := if g.code ≤ h.code then h else g

end Sys2Proof.Machine
end

