-- ==== Sys2Proof/Machine/Settings.lean ====
section
/-! DEFINITION. The 106 settings: their keys, classes, ranges and defaults (Table 10-2), the values that
RAM holds, and the settings image of the EEPROM (R166, R192). -/

namespace Sys2Proof.Machine

/-- A setting (Table 10-2). -/
inductive Setting where
  | defectBase (t : DefectType)
  | defectSlope (t : DefectType)
  | defectFloor (t : DefectType)
  | limitZone (g : Grade)
  | limitTotal (g : Grade)
  | limitOpen (g : Grade)
  | limitThick (g : Grade)
  | nominalThick
  | meanLimit
  | wetspotLimit
  | patchTarget
  | patchMaxOpen
  | patchSplitMax
  | missingLanePolicy
  | partialCap
  | maxMissing
  | scanWindow
  | laneZero (k : Fin 4)
  | laneSpan (k : Fin 4)
  | laneTempco (k : Fin 4)
  | holdThreshold
  | orderHoldTime
  | laneDownCount
  | degradeA
  | degradeB
  | degradeC
  | faultMask
  | lineFunction (k : Fin 8)
  | lineInvert (k : Fin 8)
  | binClass (b : Fin 8)
  | binCapacity (b : Fin 8)
  | binMargin (b : Fin 8)
deriving DecidableEq, Repr

/-- When a setting may be written (section 10.1). -/
inductive SettingClass where
  | grading
  | line
  | bin (b : Fin 8)
deriving DecidableEq, Repr

/-- The values a setting may hold: a range of numbers, or the codes of an enumeration. -/
inductive Domain where
  | range (low high : Nat)
  | codes (codes : List Nat)
deriving DecidableEq, Repr

/-- The values in RAM. -/
structure Settings where
  defectBase        : PerType Nat
  defectSlope       : PerType Nat
  defectFloor       : PerType Nat
  limitZone         : PerGrade Nat
  limitTotal        : PerGrade Nat
  limitOpen         : PerGrade Nat
  limitThick        : PerGrade Nat
  nominalThick      : Nat
  meanLimit         : Nat
  wetspotLimit      : Nat
  patchTarget       : Grade
  patchMaxOpen      : Nat
  patchSplitMax     : Nat
  missingLanePolicy : Policy
  partialCap        : Grade
  maxMissing        : Nat
  scanWindow        : Nat
  laneZero          : Quad Nat
  laneSpan          : Quad Nat
  laneTempco        : Quad Nat
  holdThreshold     : Nat
  orderHoldTime     : Nat
  laneDownCount     : Nat
  degradeA          : Bool
  degradeB          : Bool
  degradeC          : Bool
  faultMask         : Nat
  lineFunction      : Oct LineFunction
  lineInvert        : Oct Bool
  binClass          : Oct BinClass
  binCapacity       : Oct Nat
  binMargin         : Oct Nat
deriving DecidableEq, Repr

/-- The defect types in the order of their codes. -/
def defectTypes : List DefectType := [.soundKnot, .looseKnot, .hole, .split, .pitch, .stain, .rough]

/-- Every setting, in ascending order of its key. -/
def allSettings : List Setting :=
  defectTypes.map .defectBase ++ defectTypes.map .defectSlope ++ defectTypes.map .defectFloor ++
  grades.map .limitZone ++ grades.map .limitTotal ++ grades.map .limitOpen ++ grades.map .limitThick ++
  [.nominalThick, .meanLimit, .wetspotLimit, .patchTarget, .patchMaxOpen, .patchSplitMax,
   .missingLanePolicy, .partialCap, .maxMissing, .scanWindow] ++
  fourLanes.map .laneZero ++ fourLanes.map .laneSpan ++ fourLanes.map .laneTempco ++
  [.holdThreshold, .orderHoldTime, .laneDownCount, .degradeA, .degradeB, .degradeC, .faultMask] ++
  eight.map .lineFunction ++ eight.map .lineInvert ++
  eight.map .binClass ++ eight.map .binCapacity ++ eight.map .binMargin

/-- The key of a setting (Table 10-2). -/
def Setting.key : Setting → Nat
  | .defectBase t => 0x0100 + t.code
  | .defectSlope t => 0x0110 + t.code
  | .defectFloor t => 0x0120 + t.code
  | .limitZone g => 0x0200 + g.code
  | .limitTotal g => 0x0210 + g.code
  | .limitOpen g => 0x0220 + g.code
  | .limitThick g => 0x0230 + g.code
  | .nominalThick => 0x0300
  | .meanLimit => 0x0301
  | .wetspotLimit => 0x0302
  | .patchTarget => 0x0303
  | .patchMaxOpen => 0x0304
  | .patchSplitMax => 0x0305
  | .missingLanePolicy => 0x0306
  | .partialCap => 0x0307
  | .maxMissing => 0x0308
  | .scanWindow => 0x0309
  | .laneZero k => 0x0400 + k.val
  | .laneSpan k => 0x0410 + k.val
  | .laneTempco k => 0x0420 + k.val
  | .holdThreshold => 0x0500
  | .orderHoldTime => 0x0501
  | .laneDownCount => 0x0502
  | .degradeA => 0x0503
  | .degradeB => 0x0504
  | .degradeC => 0x0505
  | .faultMask => 0x0506
  | .lineFunction k => 0x0510 + k.val
  | .lineInvert k => 0x0518 + k.val
  | .binClass b => 0x0600 + b.val
  | .binCapacity b => 0x0610 + b.val
  | .binMargin b => 0x0620 + b.val

/-- The setting that a key names, if it names one. -/
def settingOfKey (key : Nat) : Option Setting := allSettings.find? fun x => x.key == key

/-- The class of a setting (Table 10-2). -/
def Setting.kind : Setting → SettingClass
  | .holdThreshold | .orderHoldTime | .laneDownCount | .degradeA | .degradeB | .degradeC | .faultMask => .line
  | .lineFunction _ | .lineInvert _ => .line
  | .binClass b | .binCapacity b | .binMargin b => .bin b
  | _ => .grading

/-- The range or the codes of a setting (Table 10-2). -/
def Setting.domain : Setting → Domain
  | .defectBase _ => .range 0 63
  | .defectSlope _ => .range 0 255
  | .defectFloor _ => .range 0 255
  | .limitZone _ => .range 0 1023
  | .limitTotal _ => .range 0 32767
  | .limitOpen _ => .range 0 31
  | .limitThick _ => .range 0 1023
  | .nominalThick => .range 500 6000
  | .meanLimit => .range 0 400
  | .wetspotLimit => .range 0 400
  | .patchTarget => .codes [0, 1, 2, 3]
  | .patchMaxOpen => .range 0 31
  | .patchSplitMax => .range 0 1023
  | .missingLanePolicy => .codes [0, 1]
  | .partialCap => .codes [0, 1, 2, 3]
  | .maxMissing => .range 1 3
  | .scanWindow => .range 20 2000
  | .laneZero _ => .range 0 4095
  | .laneSpan _ => .range 0 1023
  | .laneTempco _ => .range 0 63
  | .holdThreshold => .range 1 16
  | .orderHoldTime => .range 5 600
  | .laneDownCount => .range 1 15
  | .degradeA => .codes [0, 1]
  | .degradeB => .codes [0, 1]
  | .degradeC => .codes [0, 1]
  | .faultMask => .range 0 31
  | .lineFunction _ => .codes ([0x00, 0x01, 0x02, 0x03, 0x04] ++ eight.map (0x10 + ·.val) ++ eight.map (0x20 + ·.val))
  | .lineInvert _ => .codes [0, 1]
  | .binClass _ => .codes [0, 1, 2, 3, 4, 5, 6]
  | .binCapacity _ => .range 1 300
  | .binMargin _ => .range 0 50

/-- A value of the range or the code set. -/
def Domain.holds (d : Domain) (v : Nat) : Bool :=
  match d with
  | .range low high => low ≤ v && v ≤ high
  | .codes cs => cs.contains v

/-- The default class of a bin (Table 4-2). -/
def defaultClass : Fin 8 → BinClass
  | 0 => .grade .a
  | 1 => .grade .b
  | 2 => .grade .c
  | 3 => .grade .c
  | 4 => .grade .d
  | 5 => .patch
  | 6 => .redry
  | 7 => .reinspect

/-- The defaults (Table 10-2). -/
def Settings.defaults : Settings where
  defectBase := ⟨0, 0, 0, 0, 0, 0, 0⟩
  defectSlope := ⟨0, 0, 0, 0, 0, 0, 0⟩
  defectFloor := ⟨0, 0, 0, 0, 0, 0, 0⟩
  limitZone := ⟨0, 0, 0, 0⟩
  limitTotal := ⟨0, 0, 0, 0⟩
  limitOpen := ⟨0, 0, 0, 0⟩
  limitThick := ⟨0, 0, 0, 0⟩
  nominalThick := 2540
  meanLimit := 100
  wetspotLimit := 140
  patchTarget := .b
  patchMaxOpen := 4
  patchSplitMax := 250
  missingLanePolicy := .whole
  partialCap := .c
  maxMissing := 1
  scanWindow := 400
  laneZero := ⟨0, 0, 0, 0⟩
  laneSpan := ⟨512, 512, 512, 512⟩
  laneTempco := ⟨0, 0, 0, 0⟩
  holdThreshold := 12
  orderHoldTime := 90
  laneDownCount := 4
  degradeA := true
  degradeB := true
  degradeC := false
  faultMask := 31
  lineFunction := Oct.of fun _ => .off
  lineInvert := Oct.of fun _ => false
  binClass := Oct.of defaultClass
  binCapacity := Oct.of fun _ => 200
  binMargin := Oct.of fun _ => 10

/-- The value of a setting as the wire carries it. -/
def Settings.get (r : Settings) : Setting → Nat
  | .defectBase t => r.defectBase.get t
  | .defectSlope t => r.defectSlope.get t
  | .defectFloor t => r.defectFloor.get t
  | .limitZone g => r.limitZone.get g
  | .limitTotal g => r.limitTotal.get g
  | .limitOpen g => r.limitOpen.get g
  | .limitThick g => r.limitThick.get g
  | .nominalThick => r.nominalThick
  | .meanLimit => r.meanLimit
  | .wetspotLimit => r.wetspotLimit
  | .patchTarget => r.patchTarget.code
  | .patchMaxOpen => r.patchMaxOpen
  | .patchSplitMax => r.patchSplitMax
  | .missingLanePolicy => r.missingLanePolicy.code
  | .partialCap => r.partialCap.code
  | .maxMissing => r.maxMissing
  | .scanWindow => r.scanWindow
  | .laneZero k => r.laneZero.get k
  | .laneSpan k => r.laneSpan.get k
  | .laneTempco k => r.laneTempco.get k
  | .holdThreshold => r.holdThreshold
  | .orderHoldTime => r.orderHoldTime
  | .laneDownCount => r.laneDownCount
  | .degradeA => r.degradeA.toNat
  | .degradeB => r.degradeB.toNat
  | .degradeC => r.degradeC.toNat
  | .faultMask => r.faultMask
  | .lineFunction k => (r.lineFunction.get k).code
  | .lineInvert k => (r.lineInvert.get k).toNat
  | .binClass b => (r.binClass.get b).code
  | .binCapacity b => r.binCapacity.get b
  | .binMargin b => r.binMargin.get b

/-- RAM with one setting installed. A value that is no code of an enumeration changes nothing: SET_SETTING
and a load refuse it before (R190, R192). -/
def Settings.set (r : Settings) (x : Setting) (v : Nat) : Settings :=
  match x with
  | .defectBase t => { r with defectBase := r.defectBase.set t v }
  | .defectSlope t => { r with defectSlope := r.defectSlope.set t v }
  | .defectFloor t => { r with defectFloor := r.defectFloor.set t v }
  | .limitZone g => { r with limitZone := r.limitZone.set g v }
  | .limitTotal g => { r with limitTotal := r.limitTotal.set g v }
  | .limitOpen g => { r with limitOpen := r.limitOpen.set g v }
  | .limitThick g => { r with limitThick := r.limitThick.set g v }
  | .nominalThick => { r with nominalThick := v }
  | .meanLimit => { r with meanLimit := v }
  | .wetspotLimit => { r with wetspotLimit := v }
  | .patchTarget => { r with patchTarget := (Grade.ofCode v).getD r.patchTarget }
  | .patchMaxOpen => { r with patchMaxOpen := v }
  | .patchSplitMax => { r with patchSplitMax := v }
  | .missingLanePolicy =>
      { r with missingLanePolicy := if v = 0 then .whole else if v = 1 then .lane else r.missingLanePolicy }
  | .partialCap => { r with partialCap := (Grade.ofCode v).getD r.partialCap }
  | .maxMissing => { r with maxMissing := v }
  | .scanWindow => { r with scanWindow := v }
  | .laneZero k => { r with laneZero := r.laneZero.set k v }
  | .laneSpan k => { r with laneSpan := r.laneSpan.set k v }
  | .laneTempco k => { r with laneTempco := r.laneTempco.set k v }
  | .holdThreshold => { r with holdThreshold := v }
  | .orderHoldTime => { r with orderHoldTime := v }
  | .laneDownCount => { r with laneDownCount := v }
  | .degradeA => { r with degradeA := if v = 0 then false else if v = 1 then true else r.degradeA }
  | .degradeB => { r with degradeB := if v = 0 then false else if v = 1 then true else r.degradeB }
  | .degradeC => { r with degradeC := if v = 0 then false else if v = 1 then true else r.degradeC }
  | .faultMask => { r with faultMask := v }
  | .lineFunction k =>
      { r with lineFunction := r.lineFunction.set k ((LineFunction.ofCode v).getD (r.lineFunction.get k)) }
  | .lineInvert k =>
      { r with lineInvert := r.lineInvert.set k (if v = 0 then false else if v = 1 then true else r.lineInvert.get k) }
  | .binClass b => { r with binClass := r.binClass.set b ((BinClass.ofCode v).getD (r.binClass.get b)) }
  | .binCapacity b => { r with binCapacity := r.binCapacity.set b v }
  | .binMargin b => { r with binMargin := r.binMargin.set b v }

/-! ## The settings image -/

/-- The 212 body bytes: each setting's value in two bytes, in ascending key order (R166). -/
def Settings.body (r : Settings) : List Byte := allSettings.flatMap fun x => bytesOf (r.get x)

/-- The sum of bytes modulo 65536 (R166). -/
def bodySum (body : List Byte) : Nat := (body.map BitVec.toNat).sum % 65536

/-- The 215 bytes that a store writes (R195). -/
def Settings.image (r : Settings) : List Byte :=
  Config.imageFormat :: (r.body ++ bytesOf (bodySum r.body))

/-- The numbers of two bytes that stand one after another, high byte first. -/
def wordsOf : List Byte → List Nat
  | hi :: lo :: rest => (hi.toNat * 256 + lo.toNat) :: wordsOf rest
  | _ => []

/-- RAM as an image gives it, none where R192 fails the load: the format byte, the check, or a value
outside its range or code set. -/
def settingsOfImage (bytes : List Byte) : Option Settings :=
  let body := (bytes.drop 1).take 212
  let values := allSettings.zip (wordsOf body)
  if bytes.length = Config.imageBytes ∧ bytes.head? = some Config.imageFormat ∧
      wordsOf (bytes.drop 213) = [bodySum body] ∧ values.all (fun (x, v) => x.domain.holds v) then
    some (values.foldl (fun r (x, v) => r.set x v) Settings.defaults)
  else none

/-! ## The EEPROM bus (R166) -/

/-- The device address byte for writing: the seven-bit address with direction bit 0 (R166, log 23). -/
def deviceWrite : Byte := Config.eepromDevice ++ (0 : BitVec 1)

/-- The device address byte for reading: the seven-bit address with direction bit 1 (R166, log 23). -/
def deviceRead : Byte := Config.eepromDevice ++ (1 : BitVec 1)

/-- The four bytes that begin the sequential read of the image: the memory address 0000h is set, high byte first,
and the device is addressed for reading (R166). -/
def readHead : List Byte := [deviceWrite] ++ bytesOf 0 ++ [deviceRead]

/-- The four bytes of the transaction that writes the byte at an address (R166). -/
def writeFrame (address : Nat) (data : Byte) : List Byte := [deviceWrite] ++ bytesOf address ++ [data]

/-- What the part does next on the bus, with this image to store (R166): the wait for the acknowledge sends the
device address byte for writing again and again, and every byte read but the last is acknowledged. -/
def Bus.next (image : List Byte) : Bus → Option BusAct
  | .idle => none
  | .reading sent bytes =>
    match readHead[sent]? with
    | some b => some (.send b)
    | none => some (.receive (decide (bytes.length + 1 < Config.imageBytes)))
  | .writing index sent => ((writeFrame index (image.getD index 0))[sent]?).map .send
  | .waiting _ _ => some (.send deviceWrite)

end Sys2Proof.Machine
end

