-- ==== Sys2Proof/Machine/State.lean ====
section
/-! DEFINITION. The state of the block as plain data, why a command could stop, and the state after
reset. What is computed from State (counts, conditions, outputs) is in Ops.lean and Flags.lean. -/

namespace Sys2Proof.Machine

/-- The sheet record (Table 3-5, R60). -/
structure SheetRecord where
  sheet       : Word
  asIs        : Option Grade
  disposition : Disposition
  placedClass : Option BinClass
  mean        : Nat
  wetspot     : Nat
  worstZone   : Nat
  total       : Nat
  openCount   : Nat
  thickDev    : Nat
  missing     : Quad Bool
  degraded    : Bool
deriving DecidableEq, Repr

/-- A lane record of an entry (Table 1-2). -/
structure Lane where
  state   : LaneState
  defects : List Defect
  samples : Oct (Option Sample)
deriving DecidableEq, Repr

/-- The states of an entry with what is present in each (Table 1-1, R21): the milliseconds left of the
scan window in SCANNING, the result from GRADED on, the bin in PLACED. -/
inductive EntryState where
  | scanning (window : Nat)
  | ready
  | grading
  | graded (result : SheetRecord)
  | placed (result : SheetRecord) (bin : Fin 8)
deriving DecidableEq, Repr

/-- A sheet-table entry (Table 1-1). -/
structure Entry where
  sheet     : Word
  tag       : Byte
  state     : EntryState
  lanes     : Quad Lane
  unscanned : Nat
deriving DecidableEq, Repr

/-- A bin record (Table 4-1). Its count is the length of its stack, whose top is the first record (R69, R72). -/
structure Bin where
  mode     : BinMode
  cls      : BinClass
  capacity : Nat
  margin   : Nat
  inbound  : Nat
  reserved : Nat
  stack    : List SheetRecord
deriving DecidableEq, Repr

/-- The state of the VS480. -/
structure State where
  /-- R1: the message being assembled -/
  rx            : List RxChar
  /-- R6: missed-sheet counter -/
  missed        : Nat
  /-- R6: bad-message counter -/
  bad           : Nat
  /-- R6: stray-message counter -/
  stray         : Nat
  /-- Table 1-4 -/
  intake        : Intake
  /-- R16 -/
  suspended     : Option Byte
  /-- R16: the resuming entry, by its tag (log 15) -/
  resuming      : Option Byte
  /-- R16 -/
  retired       : Option Retired
  /-- R7: oldest first -/
  table         : List Entry
  /-- R20: the pending count of unscanned sheets -/
  ahead         : Nat
  /-- R8 -/
  sheetCounter  : Word
  /-- section 1.8 -/
  health        : Quad LaneHealth
  /-- R69 -/
  bins          : Oct Bin
  /-- R101: head first -/
  queue         : List Order
  /-- R109, R110: oldest admission first -/
  active        : List Active
  /-- R113: oldest first -/
  finished      : List Finished
  /-- R110 -/
  admissionSeq  : Word
  /-- Table 7-3 -/
  ports         : PerPort PortState
  /-- Table 8-3 -/
  faults        : PerFault FaultEntry
  /-- R172 -/
  firstFault    : Option FirstFault
  /-- chapter 9 -/
  lines         : Oct Line
  /-- R189: the settings in RAM -/
  ram           : Settings
  /-- Table 10-1 -/
  settingsValid : Bool
  /-- Table 10-1 -/
  op            : Operation
  /-- R166: the transfer of a load or store on the EEPROM bus -/
  bus           : Bus
  /-- R198: LRST_N is low -/
  lrstLow       : Bool
  /-- R197: PORST_N is low -/
  porstLow      : Bool
  /-- the model's own: what waits at the pins, oldest first (log 2) -/
  inputs        : List Input
  /-- the model's own: the commands that wait, first in first out (log 1) -/
  pending       : List Instr
deriving DecidableEq, Repr

/-- Why the machine would stop with a fault: for no reason. The spec's fault kinds are state (Table 8-2),
and every command it describes leaves the part running. Safe: nothing raises it. -/
inductive Fault where
deriving DecidableEq, Repr

/-- Why a command would be refused a meaning. -/
inductive Refusal where
  /-- Raised by an arm of `exec` whose command has no meaning yet; every command has one, so nothing
  raises it. Safe: the machine would stop. -/
  | notModelled (mnemonic : String)
deriving DecidableEq, Repr

/-- A bin record at power-on: OFFLINE, empty, following its settings (R97). -/
def Bin.reset (r : Settings) (b : Fin 8) : Bin :=
  { mode := .offline, cls := r.binClass.get b, capacity := r.binCapacity.get b, margin := r.binMargin.get b,
    inbound := 0, reserved := 0, stack := [] }

/-- A port at power-on (R160). Its clock is low between windows (Table 7-2). -/
def PortState.reset : PortState :=
  { window := .idle, shift := Shift.fresh, sck := false, sent := 0, answer := none, frameErr := false, lastError := .none,
    mask := 0xFFFF, flags := 0 }

/-- A line at power-on: OFF, so with no debounced level (R187); the level at its pin is the outside's
(DESIGN CHOICE low, log 6). -/
def Line.reset : Line := { pin := false, debounced := none, differ := 0, latch := false, lapsed := none }

/-- The machine right after reset: PORST_N has risen on the power-on values, and the load that its rise
begins is in progress (R25, R97, R117, R160, R176, R187, R197; log 3). The input pins stand at levels
the outside gives (DESIGN CHOICE, log 6). -/
def State.reset : State where
  rx := []
  missed := 0
  bad := 0
  stray := 0
  intake := .stopped
  suspended := none
  resuming := none
  retired := none
  table := []
  ahead := 0
  sheetCounter := 0
  health := Quad.of fun _ => { count := 0, down := false }
  bins := Oct.of (Bin.reset Settings.defaults)
  queue := []
  active := []
  finished := []
  admissionSeq := 0
  ports := PerPort.of fun _ => PortState.reset
  faults := PerFault.of fun _ => { pending := false, count := 0 }
  firstFault := none
  lines := Oct.of fun _ => Line.reset
  ram := Settings.defaults
  settingsValid := false
  op := .loading
  bus := .reading 0 []
  lrstLow := false
  porstLow := false
  inputs := []
  pending := []

end Sys2Proof.Machine
end

