-- ==== Sys2Proof/Machine/Flags.lean ====
section
/-! DEFINITION. Every condition and flag: the bins' conditions and the line-hold condition (R75, R77, R185),
event flags and attention (R167, R170), fault kinds (R171 to R173), the status byte (R148), and the
levels of the outputs. -/

namespace Sys2Proof.Machine

/-! ## Conditions of a bin (section 4.3) -/

/-- The count: the number of records on the stack (R69). -/
def Bin.count (b : Bin) : Nat := b.stack.length

/-- The effective margin (R70). -/
def Bin.effMargin (b : Bin) : Nat := min b.margin (b.capacity - 1)

/-- Room: count plus inbound is less than capacity (R75). -/
def Bin.room (b : Bin) : Bool := b.count + b.inbound < b.capacity

/-- Full: count plus inbound has reached capacity less the effective margin (R75). -/
def Bin.full (b : Bin) : Bool := b.capacity - b.effMargin ≤ b.count + b.inbound

/-- Available: count less reserved (R75). -/
def Bin.available (b : Bin) : Nat := b.count - b.reserved

/-- The full conditions of bins 0 to 7. -/
def fullBins (bins : Oct Bin) : List Bool := eight.map fun i => (bins.get i).full

/-- The OPEN bins of a class. -/
def openBins (bins : Oct Bin) (k : BinClass) : List (Fin 8) :=
  eight.filter fun i => (bins.get i).mode = .opened ∧ (bins.get i).cls = k

/-- A grade class is blocked: it has an OPEN bin, and no OPEN bin of it has room (R77). -/
def blocked (bins : Oct Bin) (g : Grade) : Bool :=
  !(openBins bins (.grade g)).isEmpty && (openBins bins (.grade g)).all fun i => !(bins.get i).room

/-- The line-hold condition (R185). -/
def State.lineHold (s : State) : Bool :=
  s.ram.holdThreshold ≤ s.table.length || grades.any (blocked s.bins)

/-- The order-ready condition: some active order is PLANNED (R186). -/
def State.orderReady (s : State) : Bool := s.active.any fun a => a.state = .planned

/-! ## Entries by their state -/

/-- The entry is in state PLACED. -/
def Entry.isPlaced (e : Entry) : Bool :=
  match e.state with
  | .placed _ _ => true
  | _ => false

/-- The entry is in state SCANNING. -/
def Entry.isScanning (e : Entry) : Bool :=
  match e.state with
  | .scanning _ => true
  | _ => false

/-- The oldest PLACED entry (R7). -/
def State.oldestPlaced (s : State) : Option Entry := s.table.find? Entry.isPlaced

/-- The oldest unplaced entry (R7). -/
def State.oldestUnplaced (s : State) : Option Entry := s.table.find? fun e => !e.isPlaced

/-- The intake is quiet: STOPPED, with no entry SCANNING, READY or GRADING (R18). -/
def State.quiet (s : State) : Bool :=
  s.intake = .stopped && s.table.all fun e =>
    match e.state with
    | .scanning _ | .ready | .grading => false
    | .graded _ | .placed _ _ => true

/-- The level at a line's pin, taken through its inversion, is active (R181). -/
def State.lineActive (s : State) (k : Fin 8) : Bool := (s.lines.get k).pin != s.ram.lineInvert.get k

/-! ## Event flags (section 8.1) -/

/-- The state of a port. -/
def State.port (s : State) (p : Port) : PortState := s.ports.get p

/-- The state with one port's replaced. -/
def State.setPort (s : State) (p : Port) (ps : PortState) : State := { s with ports := s.ports.set p ps }

/-- The ports and the bits of an event's flags (Table 8-1). -/
def Event.bits : Event → List (Port × Nat)
  | .missed => [(.line, 0)]
  | .laneFaulted => [(.line, 1)]
  | .laneDown => [(.line, 2)]
  | .badMessage => [(.line, 3)]
  | .holdChanged => [(.line, 4)]
  | .settingsDone => [(.line, 5)]
  | .faultRaised => [(.line, 6)]
  | .binChanged => [(.line, 7), (.stacker, 7)]
  | .headReady => [(.stacker, 0)]
  | .admitted => [(.press, 0)]
  | .stalled => [(.press, 1)]
  | .resumed => [(.press, 2)]
  | .withdrawn => [(.press, 3)]
  | .finished => [(.press, 4)]

/-- The bit of LINE_RESET on every port (Table 8-1). -/
def lineResetFlag : Word := 0x8000

/-- A word with one bit set. -/
def setBit (w : Word) (n : Nat) : Word := w ||| BitVec.twoPow 16 n

/-- Set one flag of one port. -/
def State.setFlag (s : State) (pn : Port × Nat) : State :=
  s.setPort pn.1 { s.port pn.1 with flags := setBit (s.port pn.1).flags pn.2 }

/-- An event sets its flags; a flag that is set stays set (R167). -/
def State.raise (s : State) (e : Event) : State := e.bits.foldl State.setFlag s

/-- Raise an event where a condition holds. -/
def State.raiseIf (s : State) (c : Bool) (e : Event) : State := if c then s.raise e else s

/-- The attention output of a port is asserted: an enabled flag is set (R170). -/
def PortState.attention (ps : PortState) : Bool := ps.flags &&& ps.mask ≠ 0

/-! ## Fault kinds (section 8.2) -/

/-- Some fault kind is pending. -/
def anyPending (f : PerFault FaultEntry) : Bool := faultKinds.any fun k => (f.get k).pending

/-- The number of the last sheet opened (R8, R172). -/
def State.lastSheet (s : State) : Word := s.sheetCounter - 1

/-- The first-fault record after a kind becomes pending (R172). -/
def State.recordFault (s : State) (k : FaultKind) : Option FirstFault :=
  if anyPending s.faults then
    s.firstFault.map fun r => { r with later := satSucc Config.faultCountMax r.later }
  else some { kind := k, sheet := s.lastSheet, later := 0 }

/-- An occurrence of a fault kind (R171): its count rises, and if it was not pending it becomes so, sets
FAULT_RAISED and enters the first-fault record. -/
def State.faultOccurs (s : State) (k : FaultKind) : State :=
  let e := s.faults.get k
  let counted := s.faults.set k { pending := true, count := satSucc Config.faultCountMax e.count }
  if e.pending then { s with faults := counted }
  else { s with faults := counted, firstFault := s.recordFault k }.raise .faultRaised

/-- The first-fault record is cleared when no kind is pending (R172). -/
def State.settleFirstFault (s : State) : State :=
  if anyPending s.faults then s else { s with firstFault := none }

/-- A fault kind stops being pending (R171); its count stays. -/
def State.faultEnds (s : State) (k : FaultKind) : State :=
  { s with faults := s.faults.set k { s.faults.get k with pending := false } }.settleFirstFault

/-- Some lane is DOWN. -/
def State.anyDown (s : State) : Bool := fourLanes.any fun k => (s.health.get k).down

/-- FAULT_N is asserted: a pending kind has its enable on in FAULT_MASK (R173). -/
def State.faultAsserted (s : State) : Bool :=
  faultKinds.any fun k => (s.faults.get k).pending && s.ram.faultMask.testBit k.code

/-! ## What an event changes is announced (R76, R185) -/

/-- After an event: BIN_CHANGED where the full condition of a bin changed (R76), and HOLD_CHANGED where the
line-hold condition changed (R185). -/
def State.announce (before after : State) : State :=
  (after.raiseIf (fullBins before.bins != fullBins after.bins) .binChanged).raiseIf
    (before.lineHold != after.lineHold) .holdChanged

/-! ## The status byte (Table 7-4) -/

/-- A settings load or store is in progress. -/
def State.settingsBusy (s : State) : Bool := s.op != .idle

/-- The status byte of a port as the conditions stand (R148). -/
def State.statusByte (s : State) (p : Port) : Byte :=
  let ps := s.port p
  let resetSeen := ps.flags.getLsbD 15
  let fault := anyPending s.faults
  let noticeless := !resetSeen && !ps.frameErr && !ps.attention && !fault
  flagByte [ps.answer.isSome, s.settingsBusy, s.lineHold, fault, ps.attention, ps.frameErr, resetSeen, noticeless]

/-! ## Outputs -/

/-- The attention output of a port: released while PORST_N is low (R170). -/
def State.attnAsserted (s : State) (p : Port) : Bool := !s.porstLow && (s.port p).attention

/-- FAULT_N: released while PORST_N is low (R173). -/
def State.faultN (s : State) : Bool := !s.porstLow && s.faultAsserted

/-- The condition that an output function follows, none for OFF and the inputs (R180, R186). -/
def State.outputCondition (s : State) : LineFunction → Option Bool
  | .off => none
  | .outLineHold => some s.lineHold
  | .outFault => some s.faultN
  | .outOrderReady => some s.orderReady
  | .inGeneral => none
  | .outBinFull b => some (s.bins.get b).full
  | .inBinEmptied _ => none

/-- The output level of a line, none where it is no output (R180). -/
def State.outputLevel (s : State) (k : Fin 8) : Option Bool :=
  (s.outputCondition (s.ram.lineFunction.get k)).map fun c => c != s.ram.lineInvert.get k

/-- What the part drives on a line: nothing while PORST_N is low (R180). -/
def State.lineDrive (s : State) (k : Fin 8) : Option Bool := if s.porstLow then none else s.outputLevel k

end Sys2Proof.Machine
end

