-- ==== Sys2Proof/Machine/Operands.lean ====
section
/-! DEFINITION. What commands carry in and answers carry out: readings as they are stored (R3, R4), the
recipe of an ORDER (R99, R162), and the payload layouts of section 7.7. -/

namespace Sys2Proof.Machine

/-! ## Readings -/

/-- A temperature clamped to −20..120 (R4). -/
def clampTemp (t : Int) : Int := max (-20) (min 120 t)

/-- The sample that a SAMPLE message stores (R4). -/
def sampleOf (raw : BitVec 12) (thickness : BitVec 13) (temp : Byte) : Sample :=
  { raw := raw.toNat, thickness := thickness.toNat, temp := clampTemp temp.toInt }

/-- The record that a DEFECT message stores: a size of 0 is taken as 1 (R3). -/
def defectOf (zone : Fin 8) (type : DefectType) (size : BitVec 10) : Defect :=
  { zone := zone, type := type, size := max 1 size.toNat }

/-! ## Recipes -/

/-- The ply of a ply byte: bits 7..4 substitution, bits 3..0 grade (Table 7-9); none where either is
outside its set. -/
def plyOf (b : Byte) : Option Ply :=
  match Grade.ofCode (b.toNat % 16) with
  | some g =>
    match b.toNat / 16 with
    | 0 => some { grade := g, substitute := false }
    | 1 => some { grade := g, substitute := true }
    | _ => none
  | none => none

/-- The plies of a list of ply bytes, none where one names no ply. -/
def pliesOf : List Byte → Option (List Ply)
  | [] => some []
  | b :: rest =>
    match plyOf b, pliesOf rest with
    | some p, some ps => some (p :: ps)
    | _, _ => none

/-- The order that an ORDER carries, none where the recipe is not valid (R99; R100, case 1). A command
that does not carry one byte per ply is no recipe (log 12). -/
def recipeOf (number : Word) (cls count : Byte) (plies : List Byte) : Option Order :=
  if count.toNat % 2 = 1 ∧ 3 ≤ count.toNat ∧ count.toNat ≤ 15 ∧ plies.length = count.toNat then
    match OrderClass.ofCode cls.toNat, pliesOf plies with
    | some c, some ps => some { number := number, cls := c, plies := ps }
    | _, _ => none
  else none

/-! ## Payloads (Tables 7-7 and 7-11 to 7-13) -/

/-- The 15 bytes of a sheet record (Table 7-13). -/
def SheetRecord.bytes (r : SheetRecord) : List Byte :=
  let asIs := (r.asIs.map Grade.code).getD noneCode
  let placed := (r.placedClass.map BinClass.code).getD noneCode
  let missing := fourLanes.map r.missing.get
  wordBytes r.sheet ++
  [byteOf (asIs * 16 + r.disposition.code), (flagByte missing <<< 4) ||| byteOf placed] ++
  bytesOf r.mean ++ bytesOf r.wetspot ++ bytesOf r.worstZone ++ bytesOf r.total ++
  [byteOf r.openCount] ++ bytesOf ((if r.degraded then 32768 else 0) + r.thickDev)

/-- The bytes of a record that may be absent: 00h when it is (Tables 7-11, 7-12). -/
def recordBytes (r : Option SheetRecord) : List Byte :=
  match r with
  | some r => r.bytes
  | none => List.replicate 15 0

/-- The code of an entry's state (Table 7-10). -/
def EntryState.code : EntryState → Nat
  | .scanning _ => 0
  | .ready => 1
  | .grading => 2
  | .graded _ => 3
  | .placed _ _ => 4

/-- The result of an entry, present from GRADED on (Table 1-1). -/
def Entry.result (e : Entry) : Option SheetRecord :=
  match e.state with
  | .graded r => some r
  | .placed r _ => some r
  | .scanning _ | .ready | .grading => none

/-- The placement of an entry, present in PLACED (Table 1-1). -/
def Entry.placement (e : Entry) : Option (Fin 8) :=
  match e.state with
  | .placed _ b => some b
  | .scanning _ | .ready | .grading | .graded _ => none

/-- The filled slots of a lane, zone z in bit z (Table 7-12). -/
def Lane.filled (l : Lane) : List Bool := eight.map fun z => (l.samples.get z).isSome

/-- The payload of READ_SHEET, part SUMMARY (Table 7-12). -/
def Entry.summary (e : Entry) : List Byte :=
  wordBytes e.sheet ++
  [e.tag, byteOf e.state.code, byteOf e.unscanned, byteOf ((e.placement.map Fin.val).getD noneCode)] ++
  fourLanes.map (fun k => byteOf ((e.lanes.get k).state.code * 32 + (e.lanes.get k).defects.length)) ++
  fourLanes.map (fun k => flagByte (e.lanes.get k).filled) ++
  recordBytes e.result

/-- The payload of READ_SHEET, part DEFECTS, from a position on (Table 7-12). -/
def Lane.defectBytes (l : Lane) (first : Nat) : List Byte :=
  let given := (l.defects.drop first).take 9
  byteOf given.length :: given.flatMap fun d => byteOf (d.zone.val * 16 + d.type.code) :: bytesOf d.size

/-- The five bytes of a sample slot, 00h when it is empty (Table 7-12). -/
def sampleBytes : Option Sample → List Byte
  | some x => bytesOf x.raw ++ bytesOf x.thickness ++ [BitVec.ofInt 8 x.temp]
  | none => List.replicate 5 0

/-- The payload of READ_SHEET, part SAMPLES, for zones 0 to 3 or 4 to 7 (Table 7-12). -/
def Lane.sampleHalf (l : Lane) (upper : Bool) : List Byte :=
  let zones : List (Fin 8) := if upper then [4, 5, 6, 7] else [0, 1, 2, 3]
  flagByte (zones.map fun z => (l.samples.get z).isSome) :: zones.flatMap fun z => sampleBytes (l.samples.get z)

/-- The payload of READ_BIN (Tables 4-7, 7-11). -/
def Bin.payload (b : Bin) (i : Fin 8) (depth : Nat) : List Byte :=
  let record := b.stack[depth]?
  [byteOf (i.val + 8 * b.mode.code + 32 * b.room.toNat + 64 * b.full.toNat + 128 * record.isSome.toNat),
   byteOf b.cls.code] ++
  bytesOf b.capacity ++ [byteOf b.effMargin] ++ bytesOf b.count ++ bytesOf b.inbound ++ bytesOf b.reserved ++
  bytesOf depth ++ recordBytes record

/-- The hold time remaining in whole seconds, rounded up; 0 when the timer is stopped (R115, Table 7-11). -/
def Active.holdSeconds (a : Active) : Nat := ((a.hold.getD 0) + 999) / 1000

/-- The plies taken. -/
def Active.takenCount (a : Active) : Nat := (a.plies.filter ActivePly.taken).length

/-- The byte of a ply in ORDER_STATUS (Table 7-11): bits 3..0 show the planned bin of a taken ply too (DESIGN
CHOICE, log 22). -/
def ActivePly.byte (p : ActivePly) : Byte :=
  byteOf (128 * p.taken.toNat + 64 * p.ply.substitute.toNat + 16 * p.ply.grade.code +
    (p.bin.map Fin.val).getD noneCode)

/-- The abort cause of an active order: present in CLOSING only (Table 5-9). -/
def Active.cause (a : Active) : Option AbortCause :=
  match a.state with
  | .closing c => some c
  | .planned | .drawing | .stalled => none

/-- The payload of ORDER_STATUS for an active order (Tables 5-9, 7-11). -/
def Active.payload (a : Active) : List Byte :=
  wordBytes a.number ++ [byteOf a.state.code, byteOf a.slot.val] ++ wordBytes a.seq ++
  [byteOf a.cls.code, byteOf a.plies.length, byteOf a.takenCount, byteOf (a.called.getD 0)] ++
  bytesOf a.holdSeconds ++ [byteOf ((a.cause.map AbortCause.code).getD absentCode)] ++
  padded 15 (a.plies.map ActivePly.byte)

/-- The payload of ORDER_STATUS for a waiting order at a queue position (Table 7-11). -/
def Order.payload (o : Order) (position : Nat) : List Byte :=
  wordBytes o.number ++
  [byteOf waitingCode, byteOf position, byteOf o.cls.code, byteOf o.plies.length]

/-- The payload of STATUS on a port (Table 7-7). -/
def State.statusPayload (s : State) (p : Port) : List Byte :=
  let down := fourLanes.map fun k => (s.health.get k).down
  [byteOf s.intake.code, byteOf s.table.length, byteOf s.ahead] ++ wordBytes s.sheetCounter ++
  bytesOf s.missed ++ bytesOf s.bad ++ bytesOf s.stray ++
  [flagByte (down ++ [false, false, s.lrstLow, s.settingsValid]), byteOf (s.port p).lastError.code,
   byteOf (16 * s.queue.length + s.active.length), flagByte (fullBins s.bins)]

/-- The payload of READ_FAULTS (Table 8-4). -/
def State.faultPayload (s : State) : List Byte :=
  [flagByte (faultKinds.map fun k => (s.faults.get k).pending)] ++
  faultKinds.map (fun k => byteOf (s.faults.get k).count) ++
  match s.firstFault with
  | some r => byteOf r.kind.code :: wordBytes r.sheet ++ [byteOf r.later]
  | none => [byteOf absentCode, 0, 0, 0]

/-- The payload of READ_LINES (Table 9-2). -/
def State.linePayload (s : State) : List Byte :=
  [flagByte (eight.map fun k => ((s.lines.get k).debounced).getD false),
   flagByte (eight.map fun k => (s.lines.get k).latch),
   flagByte (eight.map fun k => (s.outputLevel k).getD false)]

/-- The payload of an accepted SET_SETTING and of GET_SETTING: the key and the value held (R190, R191). -/
def settingPayload (key : Word) (value : Nat) : List Byte := wordBytes key ++ bytesOf value

end Sys2Proof.Machine
end

