-- ==== Sys2Proof/Machine/Grading.lean ====
section
/-! DEFINITION. The grading engine's arithmetic (chapter 2) and the grade decision (chapter 3): from the
lanes of an entry and the grading settings to its sheet record. -/

namespace Sys2Proof.Machine

/-! ## Valid lanes (R34) -/

/-- A lane is valid when it is DONE (R34). -/
def Lane.valid (l : Lane) : Bool := l.state = .done

/-- The numbers of the valid lanes. -/
def validLanes (ls : Quad Lane) : List (Fin 4) := fourLanes.filter fun k => (ls.get k).valid

/-- The missing-lane set. -/
def missingSet (ls : Quad Lane) : Quad Bool := Quad.of fun k => !(ls.get k).valid

/-- The filled slots of a lane. -/
def Lane.filledSamples (l : Lane) : List Sample := eight.filterMap fun z => l.samples.get z

/-- The valid samples, each with its lane. -/
def validSamples (ls : Quad Lane) : List (Fin 4 × Sample) :=
  (validLanes ls).flatMap fun k => (ls.get k).filledSamples.map fun x => (k, x)

/-- The valid defects. -/
def validDefects (ls : Quad Lane) : List Defect := (validLanes ls).flatMap fun k => (ls.get k).defects

/-! ## Moisture and thickness (R35 to R41) -/

/-- The converted value m (R35). -/
def converted (raw low span : Nat) : Nat := (raw - low) * span / 4096

/-- The temperature correction c (R36); the division is rounded toward minus infinity. -/
def correction (temp : Int) (tempco : Nat) : Int := ((temp - 20) * tempco + 8) / 16

/-- The corrected value v (R37). -/
def corrected (m : Nat) (c : Int) : Nat := (min 400 (max 0 ((m : Int) - c))).toNat

/-- The corrected value of a sample of a lane. -/
def moisture (r : Settings) (k : Fin 4) (x : Sample) : Nat :=
  corrected (converted x.raw (r.laneZero.get k) (r.laneSpan.get k)) (correction x.temp (r.laneTempco.get k))

/-- The sheet mean (R38); 0 stands for unknown (R40). -/
def sheetMean (vs : List Nat) : Nat := (vs.sum + vs.length / 2) / vs.length

/-- The largest of a list of numbers, 0 of none. -/
def largest (vs : List Nat) : Nat := vs.foldl max 0

/-- A thickness departs from nominal by so much, without sign (R41). -/
def departure (nominal thickness : Nat) : Nat := (nominal - thickness) + (thickness - nominal)

/-! ## Points and scores (R42 to R47) -/

/-- The points p of a defect (R42). -/
def points (r : Settings) (d : Defect) : Nat :=
  if d.size < r.defectFloor.get d.type then 0
  else min 255 (r.defectBase.get d.type + r.defectSlope.get d.type * d.size / 64)

/-- The open types (R3). -/
def openType : DefectType → Bool
  | .looseKnot | .hole | .split => true
  | .soundKnot | .pitch | .stain | .rough => false

/-- The score of a zone, from the defects of its lane that count (R43, R46). -/
def zoneScore (r : Settings) (ds : List Defect) (z : Fin 8) : Nat :=
  min 1023 ((ds.filter fun d => d.zone = z).map (points r)).sum

/-- The scores of the zones of the valid lanes, over the defects that a test keeps. -/
def zoneScores (r : Settings) (ls : Quad Lane) (keep : Defect → Bool) : List Nat :=
  (validLanes ls).flatMap fun k => eight.map (zoneScore r ((ls.get k).defects.filter keep))

/-- The open count K (R45). -/
def openCount (r : Settings) (ds : List Defect) : Nat :=
  (ds.filter fun d => openType d.type && 0 < points r d).length

/-- The longest split Ls (R47). -/
def longestSplit (r : Settings) (ds : List Defect) : Nat :=
  largest ((ds.filter fun d => d.type = .split ∧ 0 < points r d).map Defect.size)

/-- The measurement set (Table 2-6). -/
structure Measurement where
  n         : Nat
  mean      : Nat
  wetspot   : Nat
  thickDev  : Nat
  maxZ      : Nat
  total     : Nat
  openCount : Nat
  maxZ'     : Nat
  total'    : Nat
  split     : Nat
  missing   : Quad Bool
  f         : Nat
deriving DecidableEq, Repr

/-- The measurement set of the lanes of an entry (R48). With no sample the mean, the wetspot and the
deviation are 0 (R40). -/
def measure (r : Settings) (ls : Quad Lane) : Measurement :=
  let samples := validSamples ls
  let vs := samples.map fun (k, x) => moisture r k x
  let ds := validDefects ls
  let scores := zoneScores r ls fun _ => true
  let patched := zoneScores r ls fun d => !openType d.type
  { n := samples.length
    mean := sheetMean vs
    wetspot := largest vs
    thickDev := largest (samples.map fun (_, x) => departure r.nominalThick x.thickness)
    maxZ := largest scores
    total := scores.sum
    openCount := openCount r ds
    maxZ' := largest patched
    total' := patched.sum
    split := longestSplit r ds
    missing := missingSet ls
    f := 4 - (validLanes ls).length }

/-! ## The grade decision (R50 to R60) -/

/-- The sheet meets a grade (R50). -/
def meets (r : Settings) (m : Measurement) (g : Grade) : Bool :=
  m.maxZ ≤ r.limitZone.get g && m.total ≤ r.limitTotal.get g && m.openCount ≤ r.limitOpen.get g &&
  m.n ≠ 0 && m.thickDev ≤ r.limitThick.get g

/-- The as-is grade: the first grade met (R51). -/
def asIsGrade (r : Settings) (m : Measurement) : Option Grade := grades.find? (meets r m)

/-- The sheet is patchable (R58). -/
def patchable (r : Settings) (m : Measurement) : Bool :=
  let t := r.patchTarget
  1 ≤ m.openCount && m.openCount ≤ r.patchMaxOpen && m.split ≤ r.patchSplitMax &&
  m.maxZ' ≤ r.limitZone.get t && m.total' ≤ r.limitTotal.get t && m.thickDev ≤ r.limitThick.get t

/-- A grade as a disposition, REJECT where there is none. -/
def gradeOrReject : Option Grade → Disposition
  | some g => .bin (.grade g)
  | none => .reject

/-- Step 5: no lane is missing (R57, R59). -/
def fullScanDisposition (r : Settings) (m : Measurement) : Disposition :=
  let g := asIsGrade r m
  if g.any (fun g => g.code ≤ r.patchTarget.code) then gradeOrReject g
  else if patchable r m then .bin .patch
  else gradeOrReject g

/-- The disposition, by the five steps of Table 3-1 (R52 to R59). -/
def disposition (r : Settings) (m : Measurement) : Disposition :=
  if m.n = 0 then .bin .reinspect
  else if r.meanLimit < m.mean ∨ r.wetspotLimit < m.wetspot then .bin .redry
  else if 1 ≤ m.f ∧ (r.missingLanePolicy = .whole ∨ r.maxMissing < m.f) then .bin .reinspect
  else if 1 ≤ m.f then gradeOrReject ((asIsGrade r m).map fun g => g.worseOf r.partialCap)
  else fullScanDisposition r m

/-- The sheet record at completion (R60). -/
def recordOf (r : Settings) (sheet : Word) (m : Measurement) : SheetRecord :=
  { sheet := sheet
    asIs := asIsGrade r m
    disposition := disposition r m
    placedClass := none
    mean := m.mean
    wetspot := m.wetspot
    worstZone := m.maxZ
    total := m.total
    openCount := min 255 m.openCount
    thickDev := m.thickDev
    missing := m.missing
    degraded := false }

end Sys2Proof.Machine
end

