-- ==== Sys2Proof/Machine/Scheduler.lean ====
section
/-! DEFINITION. The layup scheduler (chapters 5 and 6): planning, admission, growth, finishing, aborting,
and the settlement after an emptying. -/

namespace Sys2Proof.Machine

/-! ## Choosing a bin -/

/-- Of the bins that are candidates, the one with the largest key, the lowest number of several (R82, R103). -/
def pickLargest (candidate : Fin 8 → Bool) (key : Fin 8 → Nat) : Option (Fin 8) :=
  eight.foldl (fun best i =>
    if candidate i && best.all (fun j => key j < key i) then some i else best) none

/-- The running availability at its start: the available number of each OPEN or CLOSED bin, 0 for an
OFFLINE one (R104). -/
def availableNow (bins : Oct Bin) : Oct Nat :=
  Oct.of fun i => if (bins.get i).mode = .offline then 0 else (bins.get i).available

/-- The bin that class g gives at a running availability (R103). -/
def choiceIn (bins : Oct Bin) (avail : Oct Nat) (g : Grade) : Option (Fin 8) :=
  pickLargest (fun i => (bins.get i).mode ≠ .offline && (bins.get i).cls = .grade g && 0 < avail.get i) avail.get

/-- The ply choice (R103). -/
def plyChoice (bins : Oct Bin) (avail : Oct Nat) (p : Ply) : Option (Fin 8) :=
  p.classes.findSome? (choiceIn bins avail)

/-- Planning plies in order against a running availability: one bin per ply, none where a ply finds none
(R104, R107). -/
def planPlies (bins : Oct Bin) (avail : Oct Nat) : List Ply → Option (List (Fin 8))
  | [] => some []
  | p :: rest =>
    match plyChoice bins avail p with
    | none => none
    | some b => (planPlies bins (avail.set b (avail.get b - 1)) rest).map (b :: ·)

/-- One sheet of a bin is reserved (R91). -/
def reserveOne (bins : Oct Bin) (b : Fin 8) : Oct Bin :=
  bins.set b { bins.get b with reserved := (bins.get b).reserved + 1 }

/-- One reservation of a bin is released (R92). -/
def releaseOne (bins : Oct Bin) (b : Fin 8) : Oct Bin :=
  bins.set b { bins.get b with reserved := (bins.get b).reserved - 1 }

/-- A reservation request, one sheet for each bin listed (R91). -/
def reserveAll (bins : Oct Bin) (bs : List (Fin 8)) : Oct Bin := bs.foldl reserveOne bins

/-- A release request, one sheet for each bin listed (R92). -/
def releaseAll (bins : Oct Bin) (bs : List (Fin 8)) : Oct Bin := bs.foldl releaseOne bins

/-! ## Active orders -/

/-- A ply is untaken and unplanned. -/
def ActivePly.unplanned (p : ActivePly) : Bool := !p.taken && p.bin.isNone

/-- The plies of an active order with their numbers, from 1 (R99). -/
def numbered : Nat → List ActivePly → List (Nat × ActivePly)
  | _, [] => []
  | n, p :: rest => (n, p) :: numbered (n + 1) rest

/-- The ply of a number. -/
def Active.ply (a : Active) (n : Nat) : Option ActivePly :=
  match n with
  | 0 => none
  | k + 1 => a.plies[k]?

/-- The bin of the called ply. -/
def Active.calledBin (a : Active) : Option (Fin 8) := a.called.bind fun n => (a.ply n).bind ActivePly.bin

/-- The next ply: the lowest-numbered ply not taken (R120). -/
def Active.next (a : Active) : Option (Nat × ActivePly) := (numbered 1 a.plies).find? fun np => !np.2.taken

/-- The state of an order that is not CLOSING (R121). -/
def workedOut (plies : List ActivePly) (called : Option Nat) : ActiveState :=
  if plies.any ActivePly.unplanned then .stalled
  else if called.isSome || plies.any ActivePly.taken then .drawing
  else .planned

/-- The bins of the planned untaken plies but the one numbered `keep`. -/
def Active.heldBins (a : Active) (keep : Option Nat) : List (Fin 8) :=
  (numbered 1 a.plies).filterMap fun np => if np.2.taken || keep = some np.1 then none else np.2.bin

/-- The plies with every untaken one but the one numbered `keep` unplanned (R130). A taken ply keeps the bin it
was planned on: R130 leaves it open (DESIGN CHOICE, log 22). -/
def Active.unplan (a : Active) (keep : Option Nat) : List ActivePly :=
  (numbered 1 a.plies).map fun np => if np.2.taken || keep = some np.1 then np.2 else { np.2 with bin := none }

/-- The plies with the one of a number marked taken (R124); its planned bin stays named, which R124 and R130 leave
open (DESIGN CHOICE, log 22). -/
def Active.markTaken (a : Active) (n : Nat) : List ActivePly :=
  (numbered 1 a.plies).map fun np => if np.1 = n then { np.2 with taken := true } else np.2

/-- The active order that carries a number (R111). -/
def State.findActive (s : State) (number : Word) : Option Active := s.active.find? fun a => a.number = number

/-- The active order in a slot. -/
def State.findSlot (s : State) (k : Fin 2) : Option Active := s.active.find? fun a => a.slot = k

/-- The state with the record of the order in the slot of `a` replaced by `a`. -/
def State.setActive (s : State) (a : Active) : State :=
  { s with active := s.active.map fun x => if x.slot = a.slot then a else x }

/-- The state with the order of a slot gone; the slot is free and the admission order closes up (R112). -/
def State.freeSlot (s : State) (k : Fin 2) : State := { s with active := s.active.filter fun x => x.slot ≠ k }

/-! ## Admission (sections 5.5, 5.6) -/

/-- The lower-numbered free slot (R105). -/
def State.lowestFree (s : State) : Option (Fin 2) :=
  ([0, 1] : List (Fin 2)).find? fun k => !s.active.any fun a => a.slot = k

/-- The slot record of an order at its admission (R105). -/
def admittedRecord (s : State) (k : Fin 2) (o : Order) (bs : List (Fin 8)) : Active :=
  { slot := k, number := o.number, cls := o.cls
    plies := (o.plies.zip bs).map fun pb => { ply := pb.1, bin := some pb.2, taken := false }
    state := .planned, called := none, withdrawn := none
    hold := some (s.ram.orderHoldTime * 1000), seq := s.admissionSeq }

/-- One try of the head of the queue: the state with it admitted, none where no slot is free, the queue is
empty or the plan is not complete (R104 to R106). -/
def State.admitHead (s : State) : Option State :=
  match s.lowestFree, s.queue with
  | some k, o :: rest =>
    (planPlies s.bins (availableNow s.bins) o.plies).map fun bs =>
      { s with
        queue := rest
        active := s.active ++ [admittedRecord s k o bs]
        bins := reserveAll s.bins bs
        admissionSeq := s.admissionSeq + 1 }.raise .admitted
  | _, _ => none

/-- Tries of the head, each after an admission, at most so many. -/
def State.admitUpTo : Nat → State → State
  | 0, s => s
  | n + 1, s =>
    match s.admitHead with
    | some t => State.admitUpTo n t
    | none => s

/-- The tries of one moment; two slots make at most two admissions (R106). -/
def State.admissions (s : State) : State := State.admitUpTo 2 s

/-! ## Growth (R107, R141) -/

/-- The unplanned plies planned on bins, in ply order. -/
def fillPlan : List ActivePly → List (Fin 8) → List ActivePly
  | [], _ => []
  | p :: rest, [] => p :: fillPlan rest []
  | p :: rest, b :: bs =>
    if p.unplanned then { p with bin := some b } :: fillPlan rest bs else p :: fillPlan rest (b :: bs)

/-- The retry of the order in a slot, when it is STALLED (R107, R141). -/
def State.retryStalled (s : State) (k : Fin 2) : State :=
  match s.findSlot k with
  | none => s
  | some a =>
    if a.state = .stalled then
      match planPlies s.bins (availableNow s.bins) ((a.plies.filter ActivePly.unplanned).map ActivePly.ply) with
      | none => s
      | some bs =>
        let plies := fillPlan a.plies bs
        let a' := { a with plies := plies, state := workedOut plies a.called }
        { s.setActive a' with bins := reserveAll s.bins bs }.raise .resumed
    else s

/-- The retries of the STALLED orders, oldest admission first (R107). -/
def State.retries (s : State) : State := (s.active.map Active.slot).foldl State.retryStalled s

/-- A growth of the inventory: the STALLED orders, then the head of the queue (R107). -/
def State.growth (s : State) : State := s.retries.admissions

/-! ## Finishing and aborting (sections 5.8, 6.5 to 6.8) -/

/-- The finished list with an entry at its tail, at most four (R113). -/
def pushFinished (l : List Finished) (e : Finished) : List Finished :=
  (l ++ [e]).drop (l.length + 1 - Config.finishedSize)

/-- An entry joins the finished list and FINISHED is set (R112). -/
def State.reportFinish (s : State) (number : Word) (outcome : Finish) : State :=
  { s with finished := pushFinished s.finished { number := number, outcome := outcome } }.raise .finished

/-- Steps 2 and 3 of the finish sequence (R135). -/
def State.leaveSlot (s : State) (a : Active) (outcome : Finish) : State :=
  (s.freeSlot a.slot).reportFinish a.number outcome

/-- Steps 4 and 5 of the finish sequence: the retries where something was released, then the head (R135). -/
def State.afterRelease (s : State) (released : List (Fin 8)) : State :=
  if released.isEmpty then s.admissions else s.growth

/-- The hold timer has run out (R128). -/
def Active.holdOver (a : Active) : Bool := a.hold = some 0

/-- The abort of an order that is not CLOSING (R129 to R131): with no ply called it finishes; with one
called it enters CLOSING, keeping that ply's reservation alone. -/
def State.abort (s : State) (a : Active) (cause : AbortCause) : State :=
  let released := a.heldBins a.called
  let s1 := { s with bins := releaseAll s.bins released }
  match a.called with
  | none => (s1.leaveSlot a (.aborted cause)).afterRelease released
  | some n =>
    let a' := { a with plies := a.unplan (some n), state := .closing cause, withdrawn := none, hold := none }
    (s1.setActive a').afterRelease released

/-! ## Emptying and its settlement (R94, R136 to R139) -/

/-- Step 3 of the settlement: each untaken ply planned on bin b is re-planned by itself, in ply order. The
plies, the bins after it, and whether a ply was left unplanned (R139). -/
def replan (b : Fin 8) : List ActivePly → Oct Bin → List ActivePly × Oct Bin × Bool
  | [], bins => ([], bins, false)
  | p :: rest, bins =>
    if !p.taken && p.bin = some b then
      match plyChoice bins (availableNow bins) p.ply with
      | some c =>
        let r := replan b rest (reserveOne bins c)
        ({ p with bin := some c } :: r.1, r.2.1, r.2.2)
      | none =>
        let r := replan b rest bins
        ({ p with bin := none } :: r.1, r.2.1, true)
    else
      let r := replan b rest bins
      (p :: r.1, r.2.1, r.2.2)

/-- The settlement of the order in a slot after bin b was emptied (R136). -/
def State.settleSlot (b : Fin 8) (s : State) (k : Fin 2) : State :=
  match s.findSlot k with
  | none => s
  | some a =>
    match a.state with
    | .closing c => if a.calledBin = some b then s.leaveSlot a (.aborted c) else s
    | .planned | .drawing | .stalled =>
      let hit : Bool := a.calledBin = some b
      let called := if hit then none else a.called
      let withdrawn := if hit then a.called else a.withdrawn
      let r := replan b a.plies s.bins
      let a' := { a with plies := r.1, called := called, withdrawn := withdrawn, state := workedOut r.1 called }
      (({ s.setActive a' with bins := r.2.1 }).raiseIf hit .withdrawn).raiseIf r.2.2 .stalled

/-- The settlement of every active order, oldest admission first (R136). -/
def State.settlement (s : State) (b : Fin 8) : State :=
  (s.active.map Active.slot).foldl (State.settleSlot b) s

/-- EMPTIED of a bin that is OPEN or CLOSED: the stack is discarded, count and reserved become 0, the
active orders are settled, and the head of the queue is tried for a slot that the settlement freed
(R94, R136). -/
def State.emptyBin (s : State) (b : Fin 8) : State :=
  let s1 := { s with bins := s.bins.set b { s.bins.get b with stack := [], reserved := 0 } }
  let s2 := s1.settlement b
  if s2.active.length < s1.active.length then s2.admissions else s2

/-- An EMPTIED that a line's edge makes: an OFFLINE bin is left as it is (R95). -/
def State.emptyByLine (s : State) (b : Fin 8) : State :=
  if (s.bins.get b).mode = .offline then s else s.emptyBin b

/-! ## The queue (R101) -/

/-- An order joins the queue: a REMAKE order behind the last REMAKE, a NORMAL order at the tail (R101). -/
def joinQueue (q : List Order) (o : Order) : List Order :=
  match o.cls with
  | .normal => q ++ [o]
  | .remake => q.filter (fun x => x.cls = .remake) ++ o :: q.filter (fun x => x.cls = .normal)

/-- The queue position of a number, from 1 (R101). -/
def queuePosition : List Order → Word → Option Nat
  | [], _ => none
  | o :: rest, number =>
    if o.number = number then some 1 else (queuePosition rest number).map (· + 1)

end Sys2Proof.Machine
end

