-- ==== Sys2Proof/Machine/Ops.lean ====
section
/-! DEFINITION. The named operations that the commands share: taking an accepted frame and placing its
answer (R151, R153), the sheet table and the intake (chapter 1), the grading engine (section 2.1), the
bins (chapter 4), the settings' effect on their owners (R189), and the two resets (R197, R198). -/

namespace Sys2Proof.Machine

/-- A command's effect on a part that is not held in power-on reset; while PORST_N is low nothing else
acts (R146, R197; log 16). -/
def powered (s : State) (f : State → State) : Host.Outcome State Fault Refusal :=
  .next (if s.porstLow then s else f s)

/-! ## Frames and answers -/

/-- The result code and payload of an answer; the tag is the frame's (R155). -/
structure Reply where
  code    : ResultCode
  payload : List Byte
deriving DecidableEq, Repr

/-- A refusal, or OK with no payload. -/
def Reply.bare (c : ResultCode) : Reply := { code := c, payload := [] }

/-- OK with a payload. -/
def Reply.ok (payload : List Byte) : Reply := { code := .ok, payload := payload }

/-- What an accepted frame does to its port before its command acts: the window has ended, FRAME_ERR is
clear, and the previous answer is consumed (R151). -/
def State.acceptFrame (s : State) (p : Port) : State :=
  s.setPort p { s.port p with window := .idle, frameErr := false, answer := none }

/-- The answer of a command is placed in the port's buffer (R151, R155). -/
def State.placeAnswer (s : State) (p : Port) (tag : Byte) (r : Reply) : State :=
  s.setPort p { s.port p with answer := some { tag := tag, code := r.code, payload := r.payload } }

/-- A dispatched command's answer is placed, if it has one (R151). -/
def State.answered (p : Port) (tag : Byte) (x : State × Option Reply) : State :=
  match x.2 with
  | some r => x.1.placeAnswer p tag r
  | none => x.1

/-- Dispatch of an accepted frame with a known code: NO_RIGHT on a port that may not give it, RETRY while
LRST_N is low unless it acts then, or the owning block's decision (R153, cases 2 to 4). -/
def dispatched (right actsInReset : Bool) (body : State → State × Option Reply) (s : State) :
    State × Option Reply :=
  if !right then (s, some (Reply.bare .noRight))
  else if s.lrstLow && !actsInReset then (s, some (Reply.bare .retry))
  else body s

/-- An accepted frame as one event: acceptance, dispatch, and the placing of the answer (R151). -/
def station (p : Port) (tag : Byte) (right actsInReset : Bool) (body : State → State × Option Reply)
    (s : State) : Host.Outcome State Fault Refusal :=
  powered s fun s => State.answered p tag (dispatched right actsInReset body (s.acceptFrame p))

/-- A decision that leaves the block as it is: a refusal, or a reading. -/
def unchanged (s : State) (r : Reply) : State × Option Reply := (s, some r)

/-- A rejected frame sets FRAME_ERR, records its kind, and keeps the answer (R150). -/
def State.rejectFrame (s : State) (p : Port) (w : Window) (kind : FrameError) : State :=
  s.setPort p { s.port p with window := w, frameErr := true, lastError := kind }

/-! ## The sheet table -/

/-- The entry of a tag; no two entries carry the same tag (R9). -/
def State.entryOf (s : State) (tag : Byte) : Option Entry := s.table.find? fun e => e.tag = tag

/-- The entry of a sheet number, the older where two carry it (R8). -/
def State.entryOfSheet (s : State) (n : Word) : Option Entry := s.table.find? fun e => e.sheet = n

/-- The entry of a tag is replaced. -/
def State.setEntry (s : State) (e : Entry) : State :=
  { s with table := s.table.map fun x => if x.tag = e.tag then e else x }

/-- The tags held for an entry are let go when it becomes READY or leaves the table (R16). -/
def State.letGo (s : State) (tag : Byte) : State :=
  let s1 := if s.resuming = some tag then { s with resuming := none, suspended := none } else s
  if (s1.retired.bind Retired.heir) = some tag then { s1 with retired := none } else s1

/-- The engine holds an entry: one is in state GRADING (R27). -/
def State.engineBusy (s : State) : Bool := s.table.any fun e => e.state = .grading

/-- The free engine takes the oldest READY entry (R27, R28). -/
def State.engineTake (s : State) : State :=
  if s.engineBusy then s
  else match s.table.find? fun e => e.state = .ready with
    | some e => s.setEntry { e with state := .grading }
    | none => s

/-- An entry becomes READY: its window stops, the tags held for it are let go, and a free engine takes the
oldest READY entry (R14, R16, R28). -/
def State.becomeReady (s : State) (e : Entry) : State :=
  ((s.setEntry { e with state := .ready }).letGo e.tag).engineTake

/-- An entry leaves the table (R7); the tags held for it are let go (R16), and an engine that held it is
free for the next READY entry (R28, R31). -/
def State.removeEntry (s : State) (e : Entry) : State :=
  ({ s with table := s.table.filter fun x => x.tag ≠ e.tag }.letGo e.tag).engineTake

/-- The unscanned-after count of an entry that is placed or removed goes to the pending count (R20). -/
def State.carryUnscanned (s : State) (e : Entry) : State :=
  { s with ahead := min Config.unscannedMax (s.ahead + e.unscanned) }

/-! ## Scan messages -/

/-- What a message brings to its lane (R11). -/
inductive LaneMessage where
  | defect (d : Defect)
  | sample (zone : Fin 8) (x : Sample)
  | done (status : HeadStatus)
deriving DecidableEq, Repr

/-- A final lane state (Table 1-3). -/
def LaneState.final : LaneState → Bool
  | .waiting | .opened => false
  | .done | .missing _ => true

/-- An empty lane in a state (R10). -/
def Lane.empty (st : LaneState) : Lane := { state := st, defects := [], samples := Oct.of fun _ => none }

/-- A message at an OPEN lane, or at a WAITING one, which becomes OPEN first (R11 to R13). -/
def Lane.receive (l : Lane) : LaneMessage → Lane
  | .defect d =>
    if l.defects.length < Config.defectsPerLane then { l with state := .opened, defects := l.defects ++ [d] }
    else { l with state := .missing .overflow }
  | .sample z x => { l with state := .opened, samples := l.samples.set z (some x) }
  | .done .ok => { l with state := .done }
  | .done .failed => { l with state := .missing .head }

/-- Every lane of an entry is final. -/
def Entry.allFinal (e : Entry) : Bool := fourLanes.all fun k => (e.lanes.get k).state.final

/-- A stray message is discarded and counted (R9, R11). -/
def State.countStray (s : State) : State := { s with stray := satSucc Config.counterMax s.stray }

/-- Delivery of a message to a lane of a SCANNING entry (R11), and READY when that leaves every lane final
(R14). -/
def State.deliver (s : State) (e : Entry) (k : Fin 4) (m : LaneMessage) : State :=
  match (e.lanes.get k).state with
  | .waiting | .opened =>
    let e' := { e with lanes := e.lanes.set k ((e.lanes.get k).receive m) }
    if e'.allFinal then s.becomeReady e' else s.setEntry e'
  | .done | .missing .head => s.countStray
  -- a MISSING(TIMEOUT) lane is not found in a SCANNING entry (R11; log 13)
  | .missing .overflow | .missing .down | .missing .timeout => s

/-- The lanes of an entry at its opening (R10). -/
def openingLanes (h : Quad LaneHealth) : Quad Lane :=
  Quad.of fun k => Lane.empty (if (h.get k).down then .missing .down else .waiting)

/-- The entry that opens for a tag (R10). -/
def State.newEntry (s : State) (tag : Byte) : Entry :=
  { sheet := s.sheetCounter, tag := tag, state := .scanning s.ram.scanWindow,
    lanes := openingLanes s.health, unscanned := 0 }

/-- What an opening does to the tags the intake holds: a SUSPENDED intake becomes RUNNING with the new
entry as its resuming entry, and the first entry to open after a retirement is noted (R10, R16). -/
def State.noteOpening (s : State) (tag : Byte) : State :=
  let s1 := if s.intake = .suspended then { s with intake := .running, resuming := some tag } else s
  { s1 with retired := s1.retired.map fun r => if r.heir = none then { r with heir := some tag } else r }

/-- An entry opens for the tag of a message, and the message is delivered to it (R8, R10); an entry whose
lanes are all DOWN is READY at once, and the message is discarded. -/
def State.openEntry (s : State) (tag : Byte) (k : Fin 4) (m : LaneMessage) : State :=
  let e := s.newEntry tag
  let s1 := { s with table := s.table ++ [e], sheetCounter := s.sheetCounter + 1 }.noteOpening tag
  if e.allFinal then s1.becomeReady e else s1.deliver e k m

/-- SYNC_LOST occurs where a missed sheet brought a count to 255 or found it there (R20). -/
def State.syncCheck (s : State) (n : Nat) : State :=
  if n = Config.unscannedMax then s.faultOccurs .syncLost else s

/-- A missed sheet counted in the pending count (R20). -/
def State.missAhead (s : State) : State :=
  { s with ahead := satSucc Config.unscannedMax s.ahead }.syncCheck (satSucc Config.unscannedMax s.ahead)

/-- A missed sheet counted after an entry (R20). -/
def State.missAfter (s : State) (e : Entry) : State :=
  (s.setEntry { e with unscanned := satSucc Config.unscannedMax e.unscanned }).syncCheck
    (satSucc Config.unscannedMax e.unscanned)

/-- One more missed sheet at the young end of the conveyor order: after the youngest entry when it is
unplaced, else ahead of every unplaced entry, of which there is none (R20). -/
def State.countMissed (s : State) : State :=
  match s.table.getLast? with
  | some e => if e.isPlaced then s.missAhead else s.missAfter e
  | none => s.missAhead

/-- A missed sheet (R19). -/
def State.missSheet (s : State) (tag : Byte) : State :=
  let s1 := { s with missed := satSucc Config.counterMax s.missed }.raise .missed
  { s1 with intake := .suspended, suspended := some tag, resuming := none }.countMissed

/-- The tag is the suspended tag or the retired tag (R9, case 3). -/
def State.tagHeld (s : State) (tag : Byte) : Bool :=
  s.suspended = some tag || s.retired.map Retired.tag = some tag

/-- A well-formed message is routed by its tag (R9). -/
def State.route (s : State) (tag : Byte) (k : Fin 4) (m : LaneMessage) : State :=
  match s.entryOf tag with
  | some e => if e.isScanning then s.deliver e k m else s.countStray
  | none =>
    if s.intake = .stopped then s.countStray
    else if s.tagHeld tag then s
    else if s.table.length < Config.tableSize then s.openEntry tag k m
    else s.missSheet tag

/-- A message routed, with what its event changed announced (R185). -/
def State.message (s : State) (tag : Byte) (k : Fin 4) (m : LaneMessage) : State :=
  s.announce (s.route tag k m)

/-- A lane when the window expires: WAITING and OPEN become MISSING(TIMEOUT), with what they stored (R15). -/
def Lane.timeOut (l : Lane) : Lane :=
  match l.state with
  | .waiting | .opened => { l with state := .missing .timeout }
  | .done | .missing _ => l

/-- Expiry of the scan window of a SCANNING entry (R15). -/
def State.expireWindow (s : State) (e : Entry) : State :=
  s.becomeReady { e with lanes := Quad.of fun k => (e.lanes.get k).timeOut }

/-! ## Completion of grading (R22, R23, R32) -/

/-- One lane's outcome at a completion (R22, R63): a REPORTED lane has its count set to 0, a FAILED one is
counted and may go DOWN, an EXCLUDED one is left. -/
def State.laneOutcome (s : State) (k : Fin 4) (st : LaneState) : State :=
  let h := s.health.get k
  match st with
  | .done => { s with health := s.health.set k { h with count := 0 } }
  | .missing .timeout | .missing .overflow | .missing .head =>
    let n := satSucc Config.laneCountMax h.count
    let s1 := { s with health := s.health.set k { h with count := n } }.raise .laneFaulted
    if !h.down && s.ram.laneDownCount ≤ n then
      ({ s1 with health := s1.health.set k { count := n, down := true } }.raise .laneDown).faultOccurs .laneDown
    else s1
  | .missing .down | .waiting | .opened => s

/-- The outcomes of the four lanes of an entry (R63). -/
def State.laneOutcomes (s : State) (e : Entry) : State :=
  fourLanes.foldl (fun s k => s.laneOutcome k (e.lanes.get k).state) s

/-- Completion of the grading of an entry: result, lane health, HEAD_READY, and the next take (R32). -/
def State.complete (s : State) (e : Entry) : State :=
  let e' := { e with state := .graded (recordOf s.ram e.sheet (measure s.ram e.lanes)) }
  let s1 := (s.setEntry e').laneOutcomes e'
  (s1.raiseIf (s1.oldestUnplaced.map Entry.tag = some e.tag) .headReady).engineTake

/-! ## Bins -/

/-- One bin's record is replaced. -/
def State.setBin (s : State) (b : Fin 8) (r : Bin) : State := { s with bins := s.bins.set b r }

/-- The inbound of a bin rises by one (R80). -/
def State.inboundUp (s : State) (b : Fin 8) : State :=
  s.setBin b { s.bins.get b with inbound := (s.bins.get b).inbound + 1 }

/-- The inbound of a bin falls by one (R85, R87). -/
def State.inboundDown (s : State) (b : Fin 8) : State :=
  s.setBin b { s.bins.get b with inbound := (s.bins.get b).inbound - 1 }

/-- A record is pushed on top of a bin's stack (R72, R85). -/
def State.pushRecord (s : State) (b : Fin 8) (r : SheetRecord) : State :=
  s.setBin b { s.bins.get b with stack := r :: (s.bins.get b).stack }

/-- A take: the top record is popped, and count and reserved fall by one (R93). The stack is not empty at a
take (R124; log 13). -/
def State.takeFrom (s : State) (b : Fin 8) : State :=
  s.setBin b { s.bins.get b with stack := (s.bins.get b).stack.tail, reserved := (s.bins.get b).reserved - 1 }

/-- The top record of a bin. -/
def State.topRecord (s : State) (b : Fin 8) : Option SheetRecord := (s.bins.get b).stack.head?

/-- Within one class the walk chooses the fullest OPEN bin with room (R82). -/
def walkIn (bins : Oct Bin) (k : BinClass) : Option (Fin 8) :=
  pickLargest (fun i => (bins.get i).mode = .opened && (bins.get i).cls = k && (bins.get i).room)
    (fun i => (bins.get i).count + (bins.get i).inbound)

/-- The degrade setting of a grade; D has no degrade step (R83). -/
def degrades (r : Settings) : Grade → Bool
  | .a => r.degradeA
  | .b => r.degradeB
  | .c => r.degradeC
  | .d => false

/-- The classes that the walk looks in for a grade, in order (R83). -/
def walkGrades (r : Settings) : Grade → List Grade
  | .a => .a :: if degrades r .a then .b :: (if degrades r .b then .c :: (if degrades r .c then [.d] else []) else []) else []
  | .b => .b :: if degrades r .b then .c :: (if degrades r .c then [.d] else []) else []
  | .c => .c :: if degrades r .c then [.d] else []
  | .d => [.d]

/-- The placement walk for a bin class (R83): the chosen bin. -/
def walk (r : Settings) (bins : Oct Bin) : BinClass → Option (Fin 8)
  | .grade g => (walkGrades r g).findSome? fun h => walkIn bins (.grade h)
  | .patch => walkIn bins .patch
  | .redry => walkIn bins .redry
  | .reinspect => walkIn bins .reinspect

/-- A sheet record at its placement to a bin of a class (R61, R84). -/
def SheetRecord.placeIn (r : SheetRecord) (k : BinClass) : SheetRecord :=
  { r with placedClass := some k, degraded := decide (r.disposition ≠ .bin k) }

/-! ## Settings and their owners -/

/-- A bin's record follows its settings while it is OFFLINE (R70). -/
def Bin.follow (b : Bin) (r : Settings) (i : Fin 8) : Bin :=
  if b.mode = .offline then
    { b with cls := r.binClass.get i, capacity := r.binCapacity.get i, margin := r.binMargin.get i }
  else b

/-- A line function is an input (Table 9-1). -/
def LineFunction.isInput : LineFunction → Bool
  | .inGeneral | .inBinEmptied _ => true
  | .off | .outLineHold | .outFault | .outOrderReady | .outBinFull _ => false

/-- The level to which a line's debounced level is due to change: the difference from it has lasted for 8 ms
(R181). -/
def Line.changeDue (l : Line) : Option Bool :=
  if Config.debounceMs ≤ l.differ then l.debounced.map (!·) else none

/-- A line that takes a new function and inversion (R179): its latch is cleared, and an input takes its debounced
level from its pin, so that a change that was pending does not occur (R184). -/
def Line.reconfigure (l : Line) (f : LineFunction) (invert : Bool) : Line :=
  { l with
    latch := false
    differ := 0
    lapsed := l.changeDue.or l.lapsed
    debounced := if f.isInput then some (l.pin != invert) else none }

/-- RAM takes new values, and each setting whose value changed acts on its owner: lines are reconfigured,
records of OFFLINE bins follow (R189). The line-hold condition and FAULT_N are computed from RAM. -/
def State.install (s : State) (r : Settings) : State :=
  { s with
    ram := r
    bins := Oct.of fun i => (s.bins.get i).follow r i
    lines := Oct.of fun k =>
      if s.ram.lineFunction.get k = r.lineFunction.get k ∧ s.ram.lineInvert.get k = r.lineInvert.get k then
        s.lines.get k
      else (s.lines.get k).reconfigure (r.lineFunction.get k) (r.lineInvert.get k) }

/-- A value of a setting as SET_SETTING installs it: none where an enumeration has no such code, else the
value clamped to its range, with whether it was clamped (R190, cases 4 to 6). -/
def Domain.take (d : Domain) (v : Nat) : Option (Nat × Bool) :=
  match d with
  | .codes cs => if cs.contains v then some (v, false) else none
  | .range low high =>
    if v < low then some (low, true) else if high < v then some (high, true) else some (v, false)

/-- The gates of R190, case 3: a grading setting is written while the intake is quiet, a bin setting while
its bin is OFFLINE. -/
def State.mayWrite (s : State) (x : Setting) : Bool :=
  match x.kind with
  | .grading => s.quiet
  | .line => true
  | .bin b => (s.bins.get b).mode = .offline

/-! ## Resets -/

/-- A port at a line reset (R160, R177): the window goes on, and the attention mask is kept. -/
def PortState.lineReset (ps : PortState) : PortState :=
  { ps with answer := none, frameErr := false, lastError := .none, flags := lineResetFlag }

/-- A line reset, every block at once (R26, R98, R118, R160, R177, R188, R198). -/
def State.lineReset (s : State) : State :=
  { s with
    intake := .stopped, suspended := none, resuming := none, retired := none
    table := [], ahead := 0
    health := Quad.of fun k => { s.health.get k with count := 0 }
    bins := Oct.of fun b => { s.bins.get b with inbound := 0, reserved := 0 }
    queue := [], active := [], finished := []
    ports := PerPort.of fun p => (s.port p).lineReset
    lines := Oct.of fun k => { s.lines.get k with latch := false } }

/-- A window when PORST_N goes low: none goes on, and a select that is low begins none (R146, R160). -/
def Window.powerOn : Window → Window
  | .idle => .idle
  | .opened _ _ _ | .expired | .ignored => .ignored

/-- PORST_N goes low: every block takes its power-on values, and an operation on the EEPROM bus is abandoned
(R196, R197). What stays is what the outside holds at the pins, and the model's own lists. -/
def State.powerOn (s : State) : State :=
  { State.reset with
    porstLow := true
    lrstLow := s.lrstLow
    bus := .idle
    ports := PerPort.of fun p => { PortState.reset with window := (s.port p).window.powerOn, sck := (s.port p).sck }
    lines := Oct.of fun k => { Line.reset with pin := (s.lines.get k).pin }
    inputs := s.inputs
    pending := s.pending }

end Sys2Proof.Machine
end

