-- ==== Sys2Proof/Machine/Common.lean ====
section
/-! DEFINITION. The commands of every port (section 7.5): FETCH, STATUS, READ_EVENTS, SET_ATTN_MASK, READ_BIN,
READ_SHEET, PORT_RESET. -/

namespace Sys2Proof.Machine

/-- FETCH (R156): it consumes the previous answer and places none. -/
def execFetch (port : Port) (tag : Byte) (s : State) : Host.Outcome State Fault Refusal :=
  station port tag true true (fun s => (s, none)) s

/-- STATUS (R157). -/
def execStatus (port : Port) (tag : Byte) (s : State) : Host.Outcome State Fault Refusal :=
  station port tag true true (fun s => unchanged s (Reply.ok (s.statusPayload port))) s

/-- READ_EVENTS (R168): the flags before the clearing, and the named ones cleared. -/
def State.readEvents (s : State) (p : Port) (clear : Word) : State × Option Reply :=
  (s.setPort p { s.port p with flags := (s.port p).flags &&& ~~~clear }, some (Reply.ok (wordBytes (s.port p).flags)))

/-- READ_EVENTS (R168). -/
def execReadEvents (port : Port) (tag : Byte) (clear : Word) (s : State) : Host.Outcome State Fault Refusal :=
  station port tag true true (fun s => s.readEvents port clear) s

/-- SET_ATTN_MASK (R169): the mask is replaced whole. -/
def execSetAttnMask (port : Port) (tag : Byte) (mask : Word) (s : State) : Host.Outcome State Fault Refusal :=
  station port tag true false
    (fun s => (s.setPort port { s.port port with mask := mask }, some (Reply.ok []))) s

/-- READ_BIN's decision (R96). -/
def State.readBin (s : State) (bin : BitVec 7) (depth : BitVec 9) : State × Option Reply :=
  match binNumber bin.toNat with
  | some b =>
    if depth.toNat ≤ 299 then unchanged s (Reply.ok ((s.bins.get b).payload b depth.toNat))
    else unchanged s (Reply.bare .badArgument)
  | none => unchanged s (Reply.bare .badArgument)

/-- READ_BIN (R96). -/
def execReadBin (port : Port) (tag : Byte) (bin : BitVec 7) (depth : BitVec 9) (s : State) :
    Host.Outcome State Fault Refusal :=
  station port tag true false (fun s => s.readBin bin depth) s

/-- READ_SHEET's decision (R158): the entry is looked for first, and then the part is read (log 14). The
selector's bits 7..6 name a lane, bits 4..0 a first position, bit 0 a half (Table 7-9). -/
def State.readSheet (s : State) (sheet : Word) (part selector : Byte) : Reply :=
  match s.entryOfSheet sheet with
  | none => Reply.bare .noEntry
  | some e =>
    let lane := e.lanes.get ⟨selector.toNat / 64 % 4, Nat.mod_lt _ (by decide)⟩
    match part.toNat with
    | 0 => Reply.ok e.summary
    | 1 => Reply.ok (lane.defectBytes (selector.toNat % 32))
    | 2 => Reply.ok (lane.sampleHalf (selector.toNat % 2 = 1))
    | _ => Reply.bare .badArgument

/-- READ_SHEET (R158). -/
def execReadSheet (port : Port) (tag : Byte) (sheet : Word) (part selector : Byte) (s : State) :
    Host.Outcome State Fault Refusal :=
  station port tag true false (fun s => unchanged s (s.readSheet sheet part selector)) s

/-- What PORT_RESET does to its port (R159): the buffer is empty and FRAME_ERR clear already (R151). -/
def State.portReset (s : State) (p : Port) : State :=
  s.setPort p { s.port p with answer := none, frameErr := false, lastError := .none, flags := 0 }

/-- PORT_RESET (R159): no answer is placed where it acts. -/
def execPortReset (port : Port) (tag : Byte) (s : State) : Host.Outcome State Fault Refusal :=
  station port tag true false (fun s => (s.portReset port, none)) s

end Sys2Proof.Machine
end

