-- ==== Sys2Proof/Machine/LinePort.lean ====
section
/-! DEFINITION. The commands of the L port: START, STOP, SET_SETTING, GET_SETTING, LOAD_SETTINGS,
STORE_SETTINGS, BIN_STATE, LANE_UP, READ_FAULTS, READ_LINES, RESET_LINE. -/

namespace Sys2Proof.Machine

/-- The right of the L port (Table 7-8). -/
def lineOnly (p : Port) : Bool := p = .line

/-- START's decision (R17). -/
def State.start (s : State) : State × Option Reply :=
  if s.settingsBusy then unchanged s (Reply.bare .retry)
  else if !s.settingsValid then unchanged s (Reply.bare .refused)
  else if s.intake = .stopped then
    ({ s with intake := .running, suspended := none, resuming := none, retired := none }, some (Reply.ok []))
  else unchanged s (Reply.ok [])

/-- START (R17). -/
def execStart (port : Port) (tag : Byte) (s : State) : Host.Outcome State Fault Refusal :=
  station port tag (lineOnly port) false State.start s

/-- STOP (R18). -/
def execStop (port : Port) (tag : Byte) (s : State) : Host.Outcome State Fault Refusal :=
  station port tag (lineOnly port) false
    (fun s => ({ s with intake := .stopped, suspended := none, resuming := none, retired := none },
      some (Reply.ok []))) s

/-- SET_SETTING's decision on a setting that its key names (R190, cases 3 to 6). -/
def State.writeSetting (s : State) (x : Setting) (key : Word) (v : Nat) : State × Option Reply :=
  if !s.mayWrite x then unchanged s (Reply.bare .refused)
  else match x.domain.take v with
    | none => unchanged s (Reply.bare .badArgument)
    | some (held, clamped) =>
      (s.announce (s.install (s.ram.set x held)),
        some { code := if clamped then .clamped else .ok, payload := settingPayload key held })

/-- SET_SETTING's decision (R190). -/
def State.setSetting (s : State) (key : Word) (value : BitVec 32) : State × Option Reply :=
  if s.settingsBusy then unchanged s (Reply.bare .retry)
  else match settingOfKey key.toNat with
    | none => unchanged s (Reply.bare .badArgument)
    | some x => s.writeSetting x key value.toNat

/-- SET_SETTING (R190). -/
def execSetSetting (port : Port) (tag : Byte) (key : Word) (value : BitVec 32) (s : State) :
    Host.Outcome State Fault Refusal :=
  station port tag (lineOnly port) false (fun s => s.setSetting key value) s

/-- GET_SETTING's decision (R191). -/
def State.getSetting (s : State) (key : Word) : Reply :=
  if s.settingsBusy then Reply.bare .retry
  else match settingOfKey key.toNat with
    | none => Reply.bare .badArgument
    | some x => Reply.ok (settingPayload key (s.ram.get x))

/-- GET_SETTING (R191). -/
def execGetSetting (port : Port) (tag : Byte) (key : Word) (s : State) : Host.Outcome State Fault Refusal :=
  station port tag (lineOnly port) false (fun s => unchanged s (s.getSetting key)) s

/-- LOAD_SETTINGS' decision (R194). -/
def State.loadSettings (s : State) : State × Option Reply :=
  if s.settingsBusy then unchanged s (Reply.bare .retry)
  else if !s.quiet then unchanged s (Reply.bare .refused)
  else ({ s with op := .loading, bus := .reading 0 [] }, some (Reply.ok []))

/-- LOAD_SETTINGS (R194). -/
def execLoadSettings (port : Port) (tag : Byte) (s : State) : Host.Outcome State Fault Refusal :=
  station port tag (lineOnly port) false State.loadSettings s

/-- STORE_SETTINGS' decision (R195). -/
def State.storeSettings (s : State) : State × Option Reply :=
  if s.settingsBusy then unchanged s (Reply.bare .retry)
  else ({ s with op := .storing, bus := .writing 0 0 }, some (Reply.ok []))

/-- STORE_SETTINGS (R195). -/
def execStoreSettings (port : Port) (tag : Byte) (s : State) : Host.Outcome State Fault Refusal :=
  station port tag (lineOnly port) false State.storeSettings s

/-- A bin takes a state; BIN_CHANGED is set (R73, R76). A bin that goes OFFLINE follows its settings again
(R70). -/
def State.changeBin (s : State) (b : Fin 8) (m : BinMode) : State × Option Reply :=
  let s1 := (s.setBin b ({ s.bins.get b with mode := m }.follow s.ram b)).raise .binChanged
  (s.announce s1, some (Reply.ok []))

/-- The table of R73: what a bin in its present state makes of a request. -/
def State.decideBin (s : State) (b : Fin 8) (m : BinMode) : State × Option Reply :=
  let r := s.bins.get b
  match m, r.mode with
  | .opened, .offline => s.changeBin b .opened
  | .opened, .opened => unchanged s (Reply.bare .refused)
  | .opened, .closed => s.changeBin b .opened
  | .closed, .offline => unchanged s (Reply.bare .refused)
  | .closed, .opened => s.changeBin b .closed
  | .closed, .closed => unchanged s (Reply.bare .refused)
  | .offline, .offline => unchanged s (Reply.ok [])
  | .offline, .opened | .offline, .closed =>
    if r.count = 0 ∧ r.inbound = 0 ∧ r.reserved = 0 then s.changeBin b .offline
    else unchanged s (Reply.bare .refused)

/-- BIN_STATE's decision (R73): the arguments are tested first (log 14). -/
def State.binState (s : State) (bin requested : Byte) : State × Option Reply :=
  match binNumber bin.toNat, BinMode.ofCode requested.toNat with
  | some b, some m =>
    if s.settingsBusy && m = .opened then unchanged s (Reply.bare .retry) else s.decideBin b m
  | _, _ => unchanged s (Reply.bare .badArgument)

/-- BIN_STATE (R73). -/
def execBinState (port : Port) (tag : Byte) (bin requested : Byte) (s : State) :
    Host.Outcome State Fault Refusal :=
  station port tag (lineOnly port) false (fun s => s.binState bin requested) s

/-- A lane returns to service; with the last DOWN flag the LANE_DOWN kind stops being pending (R24, R171). -/
def State.returnLane (s : State) (k : Fin 4) : State :=
  let s1 := { s with health := s.health.set k { count := 0, down := false } }
  if s1.anyDown then s1 else s1.faultEnds .laneDown

/-- LANE_UP's decision (R24). -/
def State.laneUp (s : State) (lane : Byte) : State × Option Reply :=
  match laneNumber lane.toNat with
  | some k => (s.returnLane k, some (Reply.ok []))
  | none => unchanged s (Reply.bare .badArgument)

/-- LANE_UP (R24). -/
def execLaneUp (port : Port) (tag : Byte) (lane : Byte) (s : State) : Host.Outcome State Fault Refusal :=
  station port tag (lineOnly port) false (fun s => s.laneUp lane) s

/-- A kind is latched, not held by its condition (Table 8-2). -/
def FaultKind.latched : FaultKind → Bool
  | .storeFailed | .syncLost | .outOfOrder => true
  | .settingsInvalid | .laneDown => false

/-- One kind after a READ_FAULTS (R174): a latched kind that is named is cleared, and a named kind that is
then not pending has its count set to 0. -/
def FaultEntry.cleared (e : FaultEntry) (k : FaultKind) (named : Bool) : FaultEntry :=
  if !named then e
  else if k.latched || !e.pending then { pending := false, count := 0 }
  else e

/-- The fault state after a READ_FAULTS (R174). -/
def State.clearFaults (s : State) (clear : Word) : State :=
  { s with faults := PerFault.of fun k => (s.faults.get k).cleared k (clear.getLsbD k.code) }.settleFirstFault

/-- READ_FAULTS (R174): the answer is taken before any clearing. -/
def execReadFaults (port : Port) (tag : Byte) (clear : Word) (s : State) : Host.Outcome State Fault Refusal :=
  station port tag (lineOnly port) false
    (fun s => (s.clearFaults clear, some (Reply.ok s.faultPayload))) s

/-- The latches that a READ_LINES names are cleared (R183). -/
def State.clearLatches (s : State) (clear : Byte) : State :=
  { s with lines := Oct.of fun k => { s.lines.get k with latch := (s.lines.get k).latch && !clear.getLsbD k.val } }

/-- READ_LINES (R183): the answer is taken before any clearing. -/
def execReadLines (port : Port) (tag : Byte) (clear : Byte) (s : State) : Host.Outcome State Fault Refusal :=
  station port tag (lineOnly port) false
    (fun s => (s.clearLatches clear, some (Reply.ok s.linePayload))) s

/-- RESET_LINE (R198): one line reset, and OK in the buffer it has just emptied (R160). -/
def execResetLine (port : Port) (tag : Byte) (s : State) : Host.Outcome State Fault Refusal :=
  station port tag (lineOnly port) false (fun s => (s.lineReset, some (Reply.ok []))) s

end Sys2Proof.Machine
end

