-- ==== Sys2Proof/Machine/Lines.lean ====
section
/-! DEFINITION. The discrete lines' events: LINE_EDGE and DEBOUNCED_LEVEL_INACTIVE. -/

namespace Sys2Proof.Machine

/-- The bin that an edge of a line empties (R182). -/
def LineFunction.emptiedBin : LineFunction → Option (Fin 8)
  | .inBinEmptied b => some b
  | .off | .outLineHold | .outFault | .outOrderReady | .inGeneral | .outBinFull _ => none

/-- A line whose debounced level changes to the level that its pin, taken through the inversion, has had for
8 ms (R181). The pin of a line whose change comes as a bare command is set with it (log 19). -/
def Line.settle (l : Line) (active invert : Bool) : Line :=
  { l with pin := active != invert, debounced := some active, differ := 0 }

/-- An edge of an input line (R182): the debounced level and the latch, and the EMPTIED of an
IN_BIN_EMPTIED line. -/
def State.lineEdge (s : State) (k : Fin 8) : State :=
  let l := { (s.lines.get k).settle true (s.ram.lineInvert.get k) with latch := true }
  let s1 := { s with lines := s.lines.set k l }
  match (s.ram.lineFunction.get k).emptiedBin with
  | some b => s1.emptyByLine b
  | none => s1

/-- A change of a line's debounced level to a level (R181): the one that was pending when the line was reconfigured
does not occur (R184, log 19), and a level that is held already is no change (log 4). -/
def State.lineChange (s : State) (k : Fin 8) (active : Bool) (change : State → State) : State :=
  if (s.lines.get k).lapsed = some active then { s with lines := s.lines.set k { s.lines.get k with lapsed := none } }
  else if (s.lines.get k).debounced = some (!active) then change s
  else s

/-- LINE_EDGE (R181, R182): the debounced level of an input line becomes active, which is an edge. -/
def execLineEdge (line : Fin 8) (s : State) : Host.Outcome State Fault Refusal :=
  powered s fun s => s.lineChange line true fun s => s.announce (s.lineEdge line)

/-- DEBOUNCED_LEVEL_INACTIVE (R181): the debounced level of an input line becomes inactive, which is no edge and
latches nothing. -/
def execDebouncedLevelInactive (line : Fin 8) (s : State) : Host.Outcome State Fault Refusal :=
  powered s fun s => s.lineChange line false fun s =>
    { s with lines := s.lines.set line ((s.lines.get line).settle false (s.ram.lineInvert.get line)) }

end Sys2Proof.Machine
end

