-- ==== Sys2Proof/Machine/Press.lean ====
section
/-! DEFINITION. The commands of the P port: ORDER, CANCEL, NEXT_PLY, TAKEN, UNCALL, ORDER_STATUS. -/

namespace Sys2Proof.Machine

/-- The right of the P port (Table 7-8). -/
def pressOnly (p : Port) : Bool := p = .press

/-- The number is that of a waiting or an active order (R100, case 2). -/
def State.numberInUse (s : State) (number : Word) : Bool :=
  s.queue.any (fun o => o.number = number) || s.active.any (fun a => a.number = number)

/-- The payload of an accepted ORDER: where the order stands after the admission attempt (R100). -/
def State.orderPayload (s : State) (number : Word) : List Byte :=
  wordBytes number ++
  match s.findActive number with
  | some a => [byteOf ActiveState.planned.code, byteOf a.slot.val]
  | none => [byteOf waitingCode, byteOf ((queuePosition s.queue number).getD 0)]

/-- ORDER's decision (R100). -/
def State.takeOrder (s : State) (number : Word) (cls count : Byte) (plies : List Byte) : State × Option Reply :=
  match recipeOf number cls count plies with
  | none => unchanged s (Reply.bare .badArgument)
  | some o =>
    if s.numberInUse number then unchanged s (Reply.bare .duplicate)
    else if Config.queueSize ≤ s.queue.length then unchanged s (Reply.bare .queueFull)
    else
      let s1 := { s with queue := joinQueue s.queue o }.admissions
      (s1, some (Reply.ok (s1.orderPayload number)))

/-- ORDER (R100). -/
def execOrder (port : Port) (tag : Byte) (number : Word) (cls count : Byte) (plies : List Byte) (s : State) :
    Host.Outcome State Fault Refusal :=
  station port tag (pressOnly port) false (fun s => s.takeOrder number cls count plies) s

/-- CANCEL of a waiting order at a queue position (R102). -/
def State.cancelWaiting (s : State) (number : Word) (position : Nat) : State :=
  let s1 := { s with queue := s.queue.filter fun o => o.number ≠ number }.reportFinish number (.aborted .cancelled)
  if position = 1 then s1.admissions else s1

/-- CANCEL of an active order (R131): the result code is FINISHED or CLOSING. -/
def State.cancelActive (s : State) (a : Active) : State × Option Reply :=
  match a.state with
  | .closing _ => unchanged s (Reply.bare .refused)
  | .planned | .drawing | .stalled =>
    (s.abort a .cancelled,
      some (Reply.ok [byteOf a.state.code, byteOf (if a.called.isSome then closingCode else finishedCode)]))

/-- CANCEL's decision (R102). -/
def State.cancel (s : State) (number : Word) : State × Option Reply :=
  match queuePosition s.queue number with
  | some n => (s.cancelWaiting number n, some (Reply.ok [byteOf waitingCode, byteOf finishedCode]))
  | none =>
    match s.findActive number with
    | some a => s.cancelActive a
    | none => unchanged s (Reply.bare .noSuchOrder)

/-- CANCEL (R102, R131). -/
def execCancel (port : Port) (tag : Byte) (number : Word) (s : State) : Host.Outcome State Fault Refusal :=
  station port tag (pressOnly port) false (fun s => s.cancel number) s

/-- The payload of a call: ply, bin, required grade, class of the bin (R122, Table 7-11). -/
def State.callPayload (s : State) (n : Nat) (p : ActivePly) (b : Fin 8) : List Byte :=
  [byteOf n, byteOf b.val, byteOf p.ply.grade.code, byteOf (s.bins.get b).cls.code]

/-- The call of a ply (R122). -/
def Active.call (a : Active) (n : Nat) : Active :=
  { a with called := some n, withdrawn := none, state := workedOut a.plies (some n) }

/-- NEXT_PLY's decision on an order that is not CLOSING (Table 6-3). An order whose every ply is taken has
finished, so a next ply is there (R120; log 13). -/
def State.callNext (s : State) (a : Active) : State × Option Reply :=
  match a.next with
  | none => unchanged s (Reply.bare .refused)
  | some (n, p) =>
    match p.bin with
    | none => unchanged s { code := .wait, payload := [byteOf n] }
    | some b =>
      if a.called.isSome then unchanged s (Reply.ok (s.callPayload n p b))
      else (s.setActive (a.call n), some (Reply.ok (s.callPayload n p b)))

/-- NEXT_PLY's decision (R122). -/
def State.nextPly (s : State) (number : Word) : State × Option Reply :=
  match s.findActive number with
  | none => unchanged s (Reply.bare .noSuchOrder)
  | some a =>
    match a.state with
    | .closing _ => unchanged s (Reply.bare .refused)
    | .planned | .drawing | .stalled => s.callNext a

/-- NEXT_PLY (R122, R123). -/
def execNextPly (port : Port) (tag : Byte) (number : Word) (s : State) : Host.Outcome State Fault Refusal :=
  station port tag (pressOnly port) false (fun s => s.nextPly number) s

/-- The order after the take of its called ply (R124, steps 2 to 4). -/
def Active.afterTake (a : Active) (n holdTime : Nat) : Active :=
  let plies := a.markTaken n
  { a with plies := plies, called := none, hold := some (holdTime * 1000), state := workedOut plies none }

/-- The number of plies still untaken (R124). -/
def untaken (plies : List ActivePly) : Nat := (plies.filter fun p => !p.taken).length

/-- A take of an order that is not CLOSING (R124, R125). -/
def State.take (s : State) (a : Active) (n : Nat) (b : Fin 8) : State :=
  let a' := a.afterTake n s.ram.orderHoldTime
  let s1 := s.takeFrom b
  if untaken a'.plies = 0 then (s1.leaveSlot a .complete).admissions else s1.setActive a'

/-- A take of a CLOSING order (R133). -/
def State.takeLate (s : State) (a : Active) (b : Fin 8) (cause : AbortCause) : State :=
  ((s.takeFrom b).leaveSlot a (.aborted cause)).admissions

/-- TAKEN of an order whose called ply n is planned on bin b (R124, R133). -/
def State.takeCalled (s : State) (a : Active) (n : Nat) (b : Fin 8) : State × Option Reply :=
  match a.state with
  | .closing c =>
    (s.announce (s.takeLate a b c),
      some { code := .late, payload := [byteOf n, byteOf b.val, byteOf c.code] ++ recordBytes (s.topRecord b) })
  | .planned | .drawing | .stalled =>
    (s.announce (s.take a n b),
      some (Reply.ok ([byteOf n, byteOf b.val, byteOf (untaken (a.markTaken n))] ++ recordBytes (s.topRecord b))))

/-- TAKEN of an active order (R124, R126, R133). -/
def State.takeActive (s : State) (a : Active) : State × Option Reply :=
  match a.called, a.calledBin with
  | some n, some b => s.takeCalled a n b
  | _, _ =>
    match a.withdrawn with
    | some m => unchanged s { code := .withdrawn, payload := [byteOf m] }
    | none => unchanged s (Reply.bare .notCalled)

/-- TAKEN's decision (R124, R126, R133). -/
def State.taken (s : State) (number : Word) : State × Option Reply :=
  match s.findActive number with
  | none => unchanged s (Reply.bare .noSuchOrder)
  | some a => s.takeActive a

/-- TAKEN (R124, R126, R133). -/
def execTaken (port : Port) (tag : Byte) (number : Word) (s : State) : Host.Outcome State Fault Refusal :=
  station port tag (pressOnly port) false (fun s => s.taken number) s

/-- UNCALL of an order that is not CLOSING (R127). -/
def State.clearCall (s : State) (a : Active) : State :=
  s.setActive { a with called := none, state := workedOut a.plies none }

/-- UNCALL of a CLOSING order (R134). -/
def State.settleClosing (s : State) (a : Active) (cause : AbortCause) : State :=
  let released := a.calledBin.toList
  ({ s with bins := releaseAll s.bins released }.leaveSlot a (.aborted cause)).afterRelease released

/-- UNCALL of an active order whose called ply is n (R127, R134). -/
def State.uncallActive (s : State) (a : Active) (n : Nat) : State × Option Reply :=
  match a.state with
  | .closing c => (s.settleClosing a c, some (Reply.ok [byteOf n, byteOf c.code]))
  | .planned | .drawing | .stalled => (s.clearCall a, some (Reply.ok [byteOf n, byteOf absentCode]))

/-- UNCALL's decision (R127, R134). -/
def State.uncall (s : State) (number : Word) : State × Option Reply :=
  match s.findActive number with
  | none => unchanged s (Reply.bare .noSuchOrder)
  | some a =>
    match a.called with
    | none => unchanged s (Reply.bare .notCalled)
    | some n => s.uncallActive a n

/-- UNCALL (R127, R134). -/
def execUncall (port : Port) (tag : Byte) (number : Word) (s : State) : Host.Outcome State Fault Refusal :=
  station port tag (pressOnly port) false (fun s => s.uncall number) s

/-- ORDER_STATUS' decision: the queue, then the slots, then the newest entry of the finished list (R114). -/
def State.orderStatus (s : State) (number : Word) : Reply :=
  match s.queue.find? (fun o => o.number = number), s.findActive number,
    s.finished.reverse.find? (fun f => f.number = number) with
  | some o, _, _ => Reply.ok (o.payload ((queuePosition s.queue number).getD 0))
  | none, some a, _ => Reply.ok a.payload
  | none, none, some f => Reply.ok (wordBytes number ++ [byteOf finishedCode, byteOf f.outcome.code])
  | none, none, none => Reply.bare .notFound

/-- ORDER_STATUS (R114, R115). -/
def execOrderStatus (port : Port) (tag : Byte) (number : Word) (s : State) : Host.Outcome State Fault Refusal :=
  station port tag (pressOnly port) false (fun s => unchanged s (s.orderStatus number)) s

end Sys2Proof.Machine
end

