-- ==== Sys2Proof/Machine/Resets.lean ====
section
/-! DEFINITION. The resets and the ends of the settings operations: LINE_RESET, POWER_ON_RESET, POWER_ON_LOAD,
LOAD_END, STORE_END. -/

namespace Sys2Proof.Machine

/-- LINE_RESET (R198): LRST_N falls and one line reset is taken; `stays` is whether LRST_N is still low
after it (log 5). While PORST_N is low the level alone is seen, and the reset is taken at the rise of
PORST_N (R197). -/
def execLineReset (stays : Bool) (s : State) : Host.Outcome State Fault Refusal :=
  .next (if s.porstLow then { s with lrstLow := stays } else { s.lineReset with lrstLow := stays })

/-- POWER_ON_RESET (R197): PORST_N is low, and every block holds its power-on values. -/
def execPowerOnReset (s : State) : Host.Outcome State Fault Refusal := .next s.powerOn

/-- The rise of PORST_N: the load begins, and a line reset is taken when LRST_N is low (R192, R197, R198). -/
def State.powerUp (s : State) : State :=
  let s1 := { s with porstLow := false, op := .loading, bus := .reading 0 [] }
  if s.lrstLow then s1.lineReset else s1

/-- POWER_ON_LOAD (R192); PORST_N rises only when it is low (log 4). -/
def execPowerOnLoad (s : State) : Host.Outcome State Fault Refusal :=
  .next (if s.porstLow then s.powerUp else s)

/-- What a load's reading makes of RAM: none where the load fails (R192). -/
def loadedSettings : LoadRead → Option Settings
  | .noAck => none
  | .image bytes => settingsOfImage bytes

/-- The end of a load (R193). -/
def State.endLoad (s : State) (read : LoadRead) : State :=
  let s1 :=
    match loadedSettings read with
    | some r => { s.install r with settingsValid := true }.faultEnds .settingsInvalid
    | none => { s.install Settings.defaults with settingsValid := false }.faultOccurs .settingsInvalid
  s.announce ({ s1 with op := .idle, bus := .idle }.raise .settingsDone)

/-- LOAD_END (R193); only a load in progress ends (log 4). -/
def execLoadEnd (read : LoadRead) (s : State) : Host.Outcome State Fault Refusal :=
  powered s fun s => if s.op = .loading then s.endLoad read else s

/-- The store succeeded: every byte was acknowledged in time and reads back as written (R195). -/
def storeGood (r : Settings) : StoreResult → Bool
  | .noAck => false
  | .waitPassed => false
  | .readBack bytes => bytes = r.image

/-- The end of a store (R195). -/
def State.endStore (s : State) (result : StoreResult) : State :=
  let s1 :=
    if storeGood s.ram result then { s with settingsValid := true }.faultEnds .settingsInvalid
    else s.faultOccurs .storeFailed
  { s1 with op := .idle, bus := .idle }.raise .settingsDone

/-- STORE_END (R195); only a store in progress ends (log 4). -/
def execStoreEnd (result : StoreResult) (s : State) : Host.Outcome State Fault Refusal :=
  powered s fun s => if s.op = .storing then s.endStore result else s

end Sys2Proof.Machine
end

