-- ==== Sys2Proof/Machine/Scan.lean ====
section
/-! DEFINITION. The scan link's commands and the ends of the timers and the engine: DEFECT, SAMPLE,
LANE_DONE, BAD_MESSAGE, SCAN_WINDOW_EXPIRY, GRADING_COMPLETE, HOLD_TIMER_EXPIRY. -/

namespace Sys2Proof.Machine

/-- DEFECT (R3, R9 to R12). -/
def execDefect (lane : Fin 4) (tag : Byte) (zone : Fin 8) (type : DefectType) (size : BitVec 10) (s : State) :
    Host.Outcome State Fault Refusal :=
  powered s fun s => s.message tag lane (.defect (defectOf zone type size))

/-- SAMPLE (R4, R9 to R11, R13). -/
def execSample (lane : Fin 4) (tag : Byte) (zone : Fin 8) (raw : BitVec 12) (thickness : BitVec 13) (temp : Byte)
    (s : State) : Host.Outcome State Fault Refusal :=
  powered s fun s => s.message tag lane (.sample zone (sampleOf raw thickness temp))

/-- LANE_DONE (R5, R9 to R11). -/
def execLaneDone (lane : Fin 4) (tag : Byte) (status : HeadStatus) (s : State) :
    Host.Outcome State Fault Refusal :=
  powered s fun s => s.message tag lane (.done status)

/-- BAD_MESSAGE (R2): counted, and flagged on the L port. -/
def execBadMessage (s : State) : Host.Outcome State Fault Refusal :=
  powered s fun s => { s with bad := satSucc Config.counterMax s.bad }.raise .badMessage

/-- SCAN_WINDOW_EXPIRY (R15); a tag that no SCANNING entry carries has no window to expire (log 4). -/
def execScanWindowExpiry (tag : Byte) (s : State) : Host.Outcome State Fault Refusal :=
  powered s fun s =>
    match s.entryOf tag with
    | some e => if e.isScanning then s.expireWindow e else s
    | none => s

/-- GRADING_COMPLETE (R32); an engine that holds no entry has nothing to complete (log 4). -/
def execGradingComplete (s : State) : Host.Outcome State Fault Refusal :=
  powered s fun s =>
    match s.table.find? fun e => e.state = .grading with
    | some e => s.complete e
    | none => s

/-- HOLD_TIMER_EXPIRY (R128 to R130): a timer that has not run out does not expire, such as one that a take
restarted or that of an order admitted since (R142); the timer of a CLOSING order is stopped, and a free slot has none
(log 4). -/
def execHoldTimerExpiry (slot : Fin 2) (s : State) : Host.Outcome State Fault Refusal :=
  powered s fun s =>
    match s.findSlot slot with
    | none => s
    | some a =>
      match a.state with
      | .closing _ => s
      | .planned | .drawing | .stalled => if a.holdOver then s.abort a .timedOut else s

end Sys2Proof.Machine
end

