-- ==== Sys2Proof/Machine/Stacker.lean ====
section
/-! DEFINITION. The commands of the S port: WHERE, DROPPED, DIVERT, EMPTIED. -/

namespace Sys2Proof.Machine

/-- The right of the S port (Table 7-8). -/
def stackerOnly (p : Port) : Bool := p = .stacker

/-- The answers of WHERE (Tables 4-4, 7-11). -/
inductive WhereAnswer where
  | bin (b : Fin 8) (sheet : Word) (d : Disposition) (placed : BinClass)
  | gate (sheet : Word) (noRoom : Bool)
  | unscanned
  | wait
  | none
deriving DecidableEq, Repr

/-- The payload of a WHERE answer (Tables 7-10, 7-11). -/
def WhereAnswer.payload : WhereAnswer → List Byte
  | .bin b sheet d k => [byteOf 0, byteOf b.val] ++ wordBytes sheet ++ [byteOf d.code, byteOf k.code]
  | .gate sheet noRoom => [byteOf 1] ++ wordBytes sheet ++ [byteOf noRoom.toNat]
  | .unscanned => [byteOf 2]
  | .wait => [byteOf 3]
  | .none => [byteOf 4]

/-- An entry goes to the gate (R79). -/
def State.gate (s : State) (e : Entry) : State := (s.carryUnscanned e).removeEntry e

/-- An entry is placed to a bin (R80). -/
def State.place (s : State) (e : Entry) (r : SheetRecord) (b : Fin 8) : State :=
  ((s.carryUnscanned e).setEntry
    { e with state := .placed (r.placeIn (s.bins.get b).cls) b, unscanned := 0 }).inboundUp b

/-- WHERE's decision on a GRADED entry (R78, case 4). -/
def State.whereGraded (s : State) (e : Entry) (r : SheetRecord) : State × WhereAnswer :=
  match r.disposition with
  | .reject => (s.gate e, .gate e.sheet false)
  | .bin k =>
    match walk s.ram s.bins k with
    | some b => (s.place e r b, .bin b e.sheet r.disposition (s.bins.get b).cls)
    | none => (s.gate e, .gate e.sheet true)

/-- WHERE's decision (R78). -/
def State.whereNext (s : State) : State × WhereAnswer :=
  if 0 < s.ahead then ({ s with ahead := s.ahead - 1 }, .unscanned)
  else match s.oldestUnplaced with
    | none => (s, .none)
    | some e =>
      match e.state with
      | .graded r => s.whereGraded e r
      | .scanning _ | .ready | .grading | .placed _ _ => (s, .wait)

/-- WHERE (R78 to R84). -/
def execWhere (port : Port) (tag : Byte) (s : State) : Host.Outcome State Fault Refusal :=
  station port tag (stackerOnly port) false
    (fun s => (s.announce s.whereNext.1, some (Reply.ok s.whereNext.2.payload))) s

/-- A refused confirmation is an occurrence of OUT_OF_ORDER (R86, R89). -/
def State.outOfOrder (s : State) : State × Option Reply :=
  (s.faultOccurs .outOfOrder, some (Reply.bare .outOfOrder))

/-- A drop that is taken (R85): the record is pushed, inbound falls, the entry leaves, and the inventory
has grown. -/
def State.drop (s : State) (e : Entry) (r : SheetRecord) (b : Fin 8) : State :=
  (((s.pushRecord b r).inboundDown b).removeEntry e).growth

/-- DROPPED's decision (R85, R86). -/
def State.dropped (s : State) (sheet : Word) : State × Option Reply :=
  match s.oldestPlaced with
  | none => s.outOfOrder
  | some e =>
    match e.state with
    | .placed r b =>
      if e.sheet = sheet then
        (s.announce (s.drop e r b), some (Reply.ok (byteOf b.val :: bytesOf ((s.bins.get b).count + 1))))
      else s.outOfOrder
    | .scanning _ | .ready | .grading | .graded _ => s.outOfOrder

/-- DROPPED (R85, R86). -/
def execDropped (port : Port) (tag : Byte) (sheet : Word) (s : State) : Host.Outcome State Fault Refusal :=
  station port tag (stackerOnly port) false (fun s => s.dropped sheet) s

/-- DIVERT of the oldest PLACED entry (R87). -/
def State.divertPlaced (s : State) (e : Entry) (b : Fin 8) : State :=
  ((s.inboundDown b).carryUnscanned e).removeEntry e

/-- DIVERT of the oldest unplaced entry (R88): one removed in SCANNING leaves its tag as the retired tag
(R16). -/
def State.divertUnplaced (s : State) (e : Entry) : State :=
  let s1 := (s.carryUnscanned e).removeEntry e
  if e.isScanning then { s1 with retired := some { tag := e.tag, heir := none } } else s1

/-- DIVERT's decision when its number is not that of the oldest PLACED entry (R88, R89). -/
def State.divertOther (s : State) (sheet : Word) : State × Option Reply :=
  match s.oldestUnplaced with
  | some e =>
    if e.sheet = sheet ∧ s.ahead = 0 then
      (s.announce (s.divertUnplaced e), some (Reply.ok [byteOf 1, byteOf e.state.code]))
    else s.outOfOrder
  | none => s.outOfOrder

/-- DIVERT's decision (R87 to R89). -/
def State.divert (s : State) (sheet : Word) : State × Option Reply :=
  match s.oldestPlaced with
  | none => s.divertOther sheet
  | some e =>
    match e.state with
    | .placed _ b =>
      if e.sheet = sheet then
        (s.announce (s.divertPlaced e b), some (Reply.ok [byteOf 0, byteOf b.val]))
      else s.divertOther sheet
    | .scanning _ | .ready | .grading | .graded _ => s.divertOther sheet

/-- DIVERT (R87 to R89). -/
def execDivert (port : Port) (tag : Byte) (sheet : Word) (s : State) : Host.Outcome State Fault Refusal :=
  station port tag (stackerOnly port) false (fun s => s.divert sheet) s

/-- EMPTIED's decision (R95). -/
def State.emptied (s : State) (bin : Byte) : State × Option Reply :=
  match binNumber bin.toNat with
  | none => unchanged s (Reply.bare .badArgument)
  | some b =>
    if (s.bins.get b).mode = .offline then unchanged s (Reply.bare .refused)
    else (s.announce (s.emptyBin b), some (Reply.ok (bytesOf (s.bins.get b).count)))

/-- EMPTIED (R95). -/
def execEmptied (port : Port) (tag : Byte) (bin : Byte) (s : State) : Host.Outcome State Fault Refusal :=
  station port tag (stackerOnly port) false (fun s => s.emptied bin) s

end Sys2Proof.Machine
end

