-- ==== Sys2Proof/Machine/Windows.lean ====
section
/-! DEFINITION. The windows of the station ports: SELECT_FALL, FRAME_REJECTED, SELECT_TIMEOUT,
UNKNOWN_COMMAND; and what a window puts on SDO. -/

namespace Sys2Proof.Machine

/-- The 32 bytes of a window's output: the status byte, the answer's tag, result code and payload, and 00h
(R147, R155). -/
def outputBytes (status : Byte) (answer : Option Answer) : List Byte :=
  padded Config.outputBytes (status ::
    match answer with
    | some a => a.tag :: byteOf a.code.code :: a.payload
    | none => [])

/-- The byte at a position of a window's output; from position 32 on it is 00h (R147). -/
def outputAt (status : Byte) (answer : Option Answer) (n : Nat) : Byte :=
  ((outputBytes status answer).take Config.outputBytes).getD n 0

/-- What a port drives on SDO: bit 7 of position 0 from the fall of select, and the next bit from each falling
clock edge; high impedance while select is high, after the select timeout, or with no window (R146, R152). -/
def PortState.sdo (ps : PortState) : Option Bool :=
  match ps.window with
  | .opened status answer _ =>
    some ((outputAt status answer (ps.sent / 8)).getLsbD (7 - ps.sent % 8))
  | .idle | .expired | .ignored => none

/-- The window that a fall of select begins: its output is fixed from the state as it stands (R147, R148). -/
def State.beginWindow (s : State) (p : Port) : State :=
  s.setPort p
    { s.port p with
      window := .opened (s.statusByte p) (s.port p).answer Config.selectTimeoutMs
      shift := Shift.fresh
      sent := 0 }

/-- SELECT_FALL (R147); while PORST_N is low it begins no window (R146). -/
def execSelectFall (port : Port) (s : State) : Host.Outcome State Fault Refusal :=
  .next (if s.porstLow then s.setPort port { s.port port with window := .ignored } else s.beginWindow port)

/-- FRAME_REJECTED (R150): the window has ended, and its frame was rejected for this kind. -/
def execFrameRejected (port : Port) (kind : RejectKind) (s : State) : Host.Outcome State Fault Refusal :=
  powered s fun s => s.rejectFrame port .idle (.rejected kind)

/-- SELECT_TIMEOUT (R152): the frame is rejected, and SDO is released until select rises. -/
def execSelectTimeout (port : Port) (s : State) : Host.Outcome State Fault Refusal :=
  powered s fun s => s.rejectFrame port .expired .selectTimeout

/-- UNKNOWN_COMMAND (R153, case 1): answered whatever LRST_N; a frame with no tag echoes 00h. -/
def execUnknownCommand (port : Port) (_code : Byte) (tag : Option Byte) (s : State) :
    Host.Outcome State Fault Refusal :=
  powered s fun s => (s.acceptFrame port).placeAnswer port (tag.getD 0) (Reply.bare .unknownCommand)

end Sys2Proof.Machine
end

