-- ==== Sys2Proof/Machine/Dispatch.lean ====
section
/-! DEFINITION. The dispatch: one arm per command, each a call of its meaning. -/

namespace Sys2Proof.Machine

def exec (i : Instr) (s : State) : Host.Outcome State Fault Refusal :=
  match i with
  | .defect lane tag zone type size => Sys2Proof.Machine.execDefect lane tag zone type size s
  | .sample lane tag zone raw thickness temp => Sys2Proof.Machine.execSample lane tag zone raw thickness temp s
  | .laneDone lane tag status => Sys2Proof.Machine.execLaneDone lane tag status s
  | .badMessage => Sys2Proof.Machine.execBadMessage s
  | .scanWindowExpiry tag => Sys2Proof.Machine.execScanWindowExpiry tag s
  | .gradingComplete => Sys2Proof.Machine.execGradingComplete s
  | .holdTimerExpiry slot => Sys2Proof.Machine.execHoldTimerExpiry slot s
  | .lineEdge line => Sys2Proof.Machine.execLineEdge line s
  | .selectFall port => Sys2Proof.Machine.execSelectFall port s
  | .frameRejected port kind => Sys2Proof.Machine.execFrameRejected port kind s
  | .selectTimeout port => Sys2Proof.Machine.execSelectTimeout port s
  | .unknownCommand port code tag => Sys2Proof.Machine.execUnknownCommand port code tag s
  | .fetch port tag => Sys2Proof.Machine.execFetch port tag s
  | .status port tag => Sys2Proof.Machine.execStatus port tag s
  | .readEvents port tag clear => Sys2Proof.Machine.execReadEvents port tag clear s
  | .setAttnMask port tag mask => Sys2Proof.Machine.execSetAttnMask port tag mask s
  | .readBin port tag bin depth => Sys2Proof.Machine.execReadBin port tag bin depth s
  | .readSheet port tag sheet part selector => Sys2Proof.Machine.execReadSheet port tag sheet part selector s
  | .portReset port tag => Sys2Proof.Machine.execPortReset port tag s
  | .start port tag => Sys2Proof.Machine.execStart port tag s
  | .stop port tag => Sys2Proof.Machine.execStop port tag s
  | .setSetting port tag key value => Sys2Proof.Machine.execSetSetting port tag key value s
  | .getSetting port tag key => Sys2Proof.Machine.execGetSetting port tag key s
  | .loadSettings port tag => Sys2Proof.Machine.execLoadSettings port tag s
  | .storeSettings port tag => Sys2Proof.Machine.execStoreSettings port tag s
  | .binState port tag bin requested => Sys2Proof.Machine.execBinState port tag bin requested s
  | .laneUp port tag lane => Sys2Proof.Machine.execLaneUp port tag lane s
  | .readFaults port tag clear => Sys2Proof.Machine.execReadFaults port tag clear s
  | .readLines port tag clear => Sys2Proof.Machine.execReadLines port tag clear s
  | .resetLine port tag => Sys2Proof.Machine.execResetLine port tag s
  | .whereTo port tag => Sys2Proof.Machine.execWhere port tag s
  | .dropped port tag sheet => Sys2Proof.Machine.execDropped port tag sheet s
  | .divert port tag sheet => Sys2Proof.Machine.execDivert port tag sheet s
  | .emptied port tag bin => Sys2Proof.Machine.execEmptied port tag bin s
  | .order port tag number cls count plies => Sys2Proof.Machine.execOrder port tag number cls count plies s
  | .cancel port tag number => Sys2Proof.Machine.execCancel port tag number s
  | .nextPly port tag number => Sys2Proof.Machine.execNextPly port tag number s
  | .taken port tag number => Sys2Proof.Machine.execTaken port tag number s
  | .uncall port tag number => Sys2Proof.Machine.execUncall port tag number s
  | .orderStatus port tag number => Sys2Proof.Machine.execOrderStatus port tag number s
  | .lineReset stays => Sys2Proof.Machine.execLineReset stays s
  | .powerOnReset => Sys2Proof.Machine.execPowerOnReset s
  | .powerOnLoad => Sys2Proof.Machine.execPowerOnLoad s
  | .loadEnd read => Sys2Proof.Machine.execLoadEnd read s
  | .storeEnd result => Sys2Proof.Machine.execStoreEnd result s
  | .debouncedLevelInactive line => Sys2Proof.Machine.execDebouncedLevelInactive line s

end Sys2Proof.Machine
end

