-- ==== Sys2Proof/Machine/Inputs.lean ====
section
/-! DEFINITION. What happens at the pins below the level of the table's commands, and what the passing of a
millisecond does (log 2, log 11). A command that results joins the queue. -/

namespace Sys2Proof.Machine

/-- A command joins the tail of the queue. -/
def State.enqueue (s : State) (c : Instr) : State := { s with pending := s.pending ++ [c] }

/-! ## The scan link (R1) -/

/-- A character received; none is while PORST_N is low (R1). -/
def State.receiveChar (s : State) (c : RxChar) : State :=
  if s.porstLow then s else { s with rx := s.rx ++ [c] }

/-- The link has been idle for two character times: a message that had begun is complete and is checked
(R1, R2). -/
def State.endMessage (s : State) : State :=
  if s.porstLow || s.rx.isEmpty then s else { s with rx := [] }.enqueue (readMessage s.rx)

/-! ## The ports (R146, R149) -/

/-- A window is open: clock edges act (R146, R152). -/
def Window.isOpen : Window → Bool
  | .opened _ _ _ => true
  | .idle | .expired | .ignored => false

/-- A port after its clock goes high: a rising edge takes one bit into the frame while a window is open; a clock
that is high already makes no edge (R146, R152). -/
def PortState.clockRise (ps : PortState) (bit : Bool) : PortState :=
  { ps with sck := true, shift := if !ps.sck && ps.window.isOpen then ps.shift.clock bit else ps.shift }

/-- A port after its clock goes low: a falling edge presents the next output bit while a window is open; a clock
that is low already makes no edge (R146, R152). -/
def PortState.clockFall (ps : PortState) : PortState :=
  { ps with sck := false, sent := if ps.sck && ps.window.isOpen then ps.sent + 1 else ps.sent }

/-- The rise of select: an open window ends in the command of what it received (R149); one that timed out,
or that began under power-on reset, ends in nothing (R146, R152). -/
def State.riseSelect (s : State) (p : Port) : State :=
  let closed := s.setPort p { s.port p with window := .idle }
  match (s.port p).window with
  | .opened _ _ _ =>
    match decodeFrame p (s.port p).shift with
    | some c => s.enqueue c
    | none => closed
  | .idle | .expired | .ignored => closed

/-! ## The lines (R181) -/

/-- The level at a line's pin changes; a difference from the debounced level is timed afresh
(R181), and the change that follows is a new one (R184, log 19). -/
def State.setPin (s : State) (k : Fin 8) (high : Bool) : State :=
  let l := s.lines.get k
  if l.pin = high then s else { s with lines := s.lines.set k { l with pin := high, differ := 0, lapsed := none } }

/-- A line after one more millisecond: how long its inverted pin level has differed from its debounced
level (R181). -/
def Line.tick (l : Line) (active : Bool) : Line :=
  match l.debounced with
  | some d => { l with differ := if d = active then 0 else satSucc Config.debounceMs l.differ }
  | none => l

/-- The command of a line whose difference has lasted for 8 ms (R181). -/
def State.lineEvent (s : State) (k : Fin 8) : List Instr :=
  match (s.lines.get k).changeDue with
  | some true => [.lineEdge k]
  | some false => [.debouncedLevelInactive k]
  | none => []

/-! ## The EEPROM bus (R166, R192, R195; log 23) -/

/-- A transfer on the bus is over, and the operation ends with this command. -/
def State.endTransfer (s : State) (c : Instr) : State := { s with bus := .idle }.enqueue c

/-- No acknowledge where one is due: the load or the store has failed (R192, R195). -/
def State.nack (s : State) : State :=
  match s.op with
  | .storing => s.endTransfer (.storeEnd .noAck)
  | .loading | .idle => s.endTransfer (.loadEnd .noAck)

/-- The transfer after the wait for an image byte has ended: the next byte's write, or the read-back (R195). -/
def Bus.afterWait (index : Nat) : Bus :=
  if index + 1 < Config.imageBytes then .writing (index + 1) 0 else .reading 0 []

/-- The bit after a byte that the part sent (R166): acknowledged, the transfer goes on; not acknowledged, the
operation fails, but for the wait of R195, which sends its byte again. -/
def State.busAck (s : State) (acked : Bool) : State :=
  match s.bus with
  | .idle => s
  | .reading sent bytes =>
    if sent < readHead.length then
      if acked then { s with bus := .reading (sent + 1) bytes } else s.nack
    else s
  | .writing index sent =>
    if acked then { s with bus := if sent < 3 then .writing index (sent + 1) else .waiting index 0 } else s.nack
  | .waiting index _ => if acked then { s with bus := Bus.afterWait index } else s

/-- The image has been read whole: the load or the store ends with it (R192, R195). -/
def State.imageRead (s : State) (bytes : List Byte) : State :=
  match s.op with
  | .storing => s.endTransfer (.storeEnd (.readBack bytes))
  | .loading | .idle => s.endTransfer (.loadEnd (.image bytes))

/-- A byte that the EEPROM put on the bus (R166); the 215th ends the sequential read. -/
def State.busData (s : State) (b : Byte) : State :=
  match s.bus with
  | .reading sent bytes =>
    if sent < readHead.length then s
    else if bytes.length + 1 < Config.imageBytes then { s with bus := .reading sent (bytes ++ [b]) }
    else s.imageRead (bytes ++ [b])
  | .idle | .writing _ _ | .waiting _ _ => s

/-- The bus after one more millisecond: only the wait for an acknowledge is timed (R195). -/
def Bus.tick : Bus → Bus
  | .waiting index waited => .waiting index (waited + 1)
  | .idle => .idle
  | .reading sent bytes => .reading sent bytes
  | .writing index sent => .writing index sent

/-- The wait for an acknowledge has passed 20 ms (R195, log 23). -/
def Bus.waitOver : Bus → Bool
  | .waiting _ waited => Config.ackWaitMs ≤ waited
  | .idle | .reading _ _ | .writing _ _ => false

/-- What the part does next on the bus (R166). -/
def State.busNext (s : State) : Option BusAct := s.bus.next s.ram.image

/-! ## One millisecond -/

/-- A scan window after one more millisecond (R10). -/
def Entry.tick (e : Entry) : Entry :=
  match e.state with
  | .scanning n => { e with state := .scanning (n - 1) }
  | .ready | .grading | .graded _ | .placed _ _ => e

/-- The scan window has run out (R15). -/
def Entry.windowOver (e : Entry) : Bool := e.state = .scanning 0

/-- A hold timer after one more millisecond; a stopped one stands (R128). -/
def Active.tick (a : Active) : Active := { a with hold := a.hold.map (· - 1) }

/-- The select timer after one more millisecond (R152). -/
def Window.tick : Window → Window
  | .opened status answer n => .opened status answer (n - 1)
  | .idle => .idle
  | .expired => .expired
  | .ignored => .ignored

/-- The select timeout has expired (R152). -/
def Window.timedOut : Window → Bool
  | .opened _ _ n => n = 0
  | .idle | .expired | .ignored => false

/-- The ports in order. -/
def allPorts : List Port := [.line, .stacker, .press]

/-- The state with every timer one millisecond on; a wait for an acknowledge that is over ends the transfer. -/
def State.advance (s : State) : State :=
  { s with
    bus := if s.bus.tick.waitOver then .idle else s.bus.tick
    table := s.table.map Entry.tick
    active := s.active.map Active.tick
    ports := PerPort.of fun p => { s.port p with window := (s.port p).window.tick }
    lines := Oct.of fun k => (s.lines.get k).tick (s.lineActive k) }

/-- The commands of what has come to its end, in a fixed order (log 2): the engine's completion (R29), scan
windows oldest first, hold timers oldest admission first, select timeouts, lines. The wait of the EEPROM bus
comes last. -/
def State.due (s : State) : List Instr :=
  (if s.engineBusy then [.gradingComplete] else []) ++
  ((s.table.filter Entry.windowOver).map fun e => .scanWindowExpiry e.tag) ++
  ((s.active.filter Active.holdOver).map fun a => .holdTimerExpiry a.slot) ++
  ((allPorts.filter fun p => (s.port p).window.timedOut).map .selectTimeout) ++
  eight.flatMap s.lineEvent

/-- The end of a store whose wait for an acknowledge runs out with this millisecond (R195). -/
def State.waitEnd (s : State) : List Instr := if s.bus.tick.waitOver then [.storeEnd .waitPassed] else []

/-- One millisecond passes; nothing is timed while PORST_N is low. -/
def State.passMs (s : State) : State :=
  if s.porstLow then s
  else { s.advance with pending := s.pending ++ (s.advance.due ++ s.waitEnd) }

/-! ## Inputs -/

/-- The effect of one input at the pins. -/
def State.takeInput (s : State) : Input → State
  | .scanChar c => s.receiveChar c
  | .scanIdle => s.endMessage
  | .selectFall p => s.enqueue (.selectFall p)
  | .clockRise p bit => s.setPort p ((s.port p).clockRise bit)
  | .clockFall p => s.setPort p (s.port p).clockFall
  | .selectRise p => s.riseSelect p
  | .pin k high => s.setPin k high
  | .lrstFall periods =>
      if Config.lrstPeriods ≤ periods ∧ !s.lrstLow then s.enqueue (.lineReset true) else s
  | .lrstRise => { s with lrstLow := false }
  | .porstFall => s.enqueue .powerOnReset
  | .porstRise => s.enqueue .powerOnLoad
  | .busAck acked => s.busAck acked
  | .busData b => s.busData b
  | .ms => s.passMs

end Sys2Proof.Machine
end

