-- ==== Sys2Proof/Machine/Step.lean ====
section
/-! DEFINITION. One step: the command at the front of the queue is run; with no command waiting the front of
the input list is taken; with neither the block idles (log 1, log 2). -/

namespace Sys2Proof.Machine

/-- What the block does with no command waiting (log 2). -/
def State.idleStep (s : State) : State :=
  match s.inputs with
  | i :: rest => { s with inputs := rest }.takeInput i
  | [] => s

/-- One step of the block. -/
def step (s : State) : Host.Outcome State Fault Refusal :=
  match s.pending with
  | c :: rest => exec c { s with pending := rest }
  | [] => .next s.idleStep

/-- The state with the command that a table word spells at the front of its queue; no word spells one, since
the table gives no row bits (log 21). -/
def State.withFetchWord (s : State) (nbits w : Nat) : State :=
  match decodeTableWord nbits w with
  | some c => { s with pending := c :: s.pending }
  | none => s

end Sys2Proof.Machine
end

