-- ==== Sys2Proof/Safety.lean ====
section
/-! DEFINITION. What a good state is, in the terms claims use: the invariants that the rules state of the
sheet table, the bins, the orders, the settings, the faults and the flags; and the names for what a
command leaves as it was. -/

namespace Sys2Proof.Machine

/-! ## What a command leaves as it was -/

/-- The scan receiver's counters and the message being assembled are as they were. -/
abbrev SameReceiver (s t : State) : Prop :=
  t.rx = s.rx ∧ t.missed = s.missed ∧ t.bad = s.bad ∧ t.stray = s.stray

/-- The intake and the tags it holds are as they were. -/
abbrev SameIntake (s t : State) : Prop :=
  t.intake = s.intake ∧ t.suspended = s.suspended ∧ t.resuming = s.resuming ∧ t.retired = s.retired

/-- The sheet table, the pending count and the sheet-number counter are as they were. -/
abbrev SameTable (s t : State) : Prop :=
  t.table = s.table ∧ t.ahead = s.ahead ∧ t.sheetCounter = s.sheetCounter

/-- Everything of chapters 1 and 2 is as it was. -/
abbrev SameSheets (s t : State) : Prop :=
  SameReceiver s t ∧ SameIntake s t ∧ SameTable s t ∧ t.health = s.health

/-- The layup scheduler is as it was. -/
abbrev SameOrders (s t : State) : Prop :=
  t.queue = s.queue ∧ t.active = s.active ∧ t.finished = s.finished ∧ t.admissionSeq = s.admissionSeq

/-- The fault state is as it was. -/
abbrev SameFaults (s t : State) : Prop := t.faults = s.faults ∧ t.firstFault = s.firstFault

/-- The settings store is as it was. -/
abbrev SameSettings (s t : State) : Prop :=
  t.ram = s.ram ∧ t.settingsValid = s.settingsValid ∧ t.op = s.op ∧ t.bus = s.bus

/-- The reset pins, and the model's two lists, are as they were. -/
abbrev SamePins (s t : State) : Prop :=
  t.lrstLow = s.lrstLow ∧ t.porstLow = s.porstLow ∧ t.inputs = s.inputs ∧ t.pending = s.pending

/-- Every bin is as it was but for its reserved number. -/
abbrev SameStacks (s t : State) : Prop :=
  ∀ b, t.bins.get b = { s.bins.get b with reserved := (t.bins.get b).reserved }

/-- No port changed but in its event flags. -/
abbrev SamePortsButFlags (s t : State) : Prop :=
  ∀ p, t.port p = { s.port p with flags := (t.port p).flags }

/-- The event flags are those that stood and those of a list (R167). -/
abbrev FlagsRaised (s t : State) (l : List (Port × Nat)) : Prop :=
  ∀ p n, n < 16 → (t.port p).flags.getLsbD n = ((s.port p).flags.getLsbD n || decide ((p, n) ∈ l))

/-- The flag of HOLD_CHANGED where the line-hold condition changed (R185). -/
def holdFlag (s t : State) : List (Port × Nat) := if s.lineHold ≠ t.lineHold then [(.line, 4)] else []

/-- The two flags of BIN_CHANGED where the full condition of a bin changed (R76). -/
def fullFlags (s t : State) : List (Port × Nat) :=
  if fullBins s.bins ≠ fullBins t.bins then [(.line, 7), (.stacker, 7)] else []

/-- A port has taken a frame and holds this answer to it; the other ports changed in their event flags
alone (R151, R155). -/
abbrev AnsweredOn (s t : State) (p : Port) (tag : Byte) (code : ResultCode) (payload : List Byte) : Prop :=
  (∀ q, q ≠ p → t.port q = { s.port q with flags := (t.port q).flags }) ∧
  t.port p = { s.port p with
    window := .idle, frameErr := false, flags := (t.port p).flags
    answer := some { tag := tag, code := code, payload := payload } }

/-- The state in which nothing changed but that a port took a frame and holds this answer to it. -/
def State.replied (s : State) (p : Port) (tag : Byte) (code : ResultCode) (payload : List Byte) : State :=
  s.setPort p { s.port p with
    window := .idle, frameErr := false, answer := some { tag := tag, code := code, payload := payload } }

/-- Neither reset pin is low, so that every command acts. -/
abbrev NoReset (s : State) : Prop := s.porstLow = false ∧ s.lrstLow = false

/-- No waiting order can be admitted: both slots hold orders, or the head of the queue, if there is one, finds
no complete plan (R106). -/
abbrev NoAdmission (s : State) : Prop :=
  s.active.length = 2 ∨ ∀ o rest, s.queue = o :: rest → planPlies s.bins (availableNow s.bins) o.plies = none

/-- No active order is STALLED. -/
abbrev NoneStalled (s : State) : Prop := ∀ a ∈ s.active, a.state ≠ .stalled

/-- The state in which an order has finished, leaving these active orders: its entry joins the finished list,
which keeps its newest four, and FINISHED is set (R112, R113). -/
def State.finishOrder (s : State) (left : List Active) (number : Word) (outcome : Finish) : State :=
  let listed := s.finished ++ [{ number := number, outcome := outcome }]
  { s with active := left, finished := listed.drop (listed.length - 4) }.setPort .press
    { s.port .press with flags := (s.port .press).flags ||| 0x0010 }

/-- The order is CLOSING. -/
def Active.isClosing (a : Active) : Bool :=
  match a.state with
  | .closing _ => true
  | .planned | .drawing | .stalled => false

/-- A ply that was untaken and planned on a bin. -/
def ActivePly.heldOn (p : ActivePly) (b : Fin 8) : Bool := !p.taken && p.bin = some b

/-- The active order is CLOSING and its called ply is planned on a bin: the emptying of that bin finishes it
(R138). -/
def Active.closedBy (b : Fin 8) (a : Active) : Bool := a.isClosing && a.calledBin = some b

/-- The plies that the emptying of a bin takes their sheets from: the untaken plies planned on it of the orders
that are not CLOSING, oldest admission first, each order's in ply order (R136, step 3). -/
def struckPlies (b : Fin 8) (active : List Active) : List Ply :=
  active.flatMap fun a => if a.isClosing then [] else (a.plies.filter fun p => p.heldOn b).map ActivePly.ply

/-- The bins after bin b was emptied and some of the struck plies were re-planned on these bins (R94, R139). -/
def binsAfter (bins : Oct Bin) (b : Fin 8) (chosen : List (Option (Fin 8))) : Oct Bin :=
  Oct.of fun i =>
    if i = b then { bins.get i with stack := [], reserved := chosen.count (some i) }
    else { bins.get i with reserved := (bins.get i).reserved + chosen.count (some i) }

/-- What the emptying of a bin that is not OFFLINE, and the settlement of the active orders after it, make of
the state, before the head of the queue is tried (R94, R136 to R139): each struck ply in turn is planned on the bin
that the ply choice finds for it as the records then stand, or is left unplanned; a call on the bin becomes
the order's withdrawn mark; the state of an order that is not CLOSING is worked out again; a CLOSING order
whose called ply was on the bin has finished with its cause, and another is as it was; the event flags of the
P port say what happened, and nothing else changes. -/
abbrev Settled (s v : State) (b : Fin 8) : Prop :=
  let struck := struckPlies b s.active
  let stays := s.active.filter fun a => !a.closedBy b
  ∃ chosen : List (Option (Fin 8)), chosen.length = struck.length ∧
    (∀ n p, struck[n]? = some p →
      let bins := binsAfter s.bins b (chosen.take n)
      chosen[n]? = some (plyChoice bins (availableNow bins) p)) ∧
    v.bins = binsAfter s.bins b chosen ∧
    v.active.length = stays.length ∧
    (∀ before a after, stays = before ++ a :: after → ∃ x, v.active[before.length]? = some x ∧
      (a.isClosing = true → x = a) ∧
      (a.isClosing = false →
        x = { a with
          plies := x.plies
          called := if a.calledBin = some b then none else a.called
          withdrawn := if a.calledBin = some b then a.called else a.withdrawn
          state := workedOut x.plies (if a.calledBin = some b then none else a.called) } ∧
        x.plies.length = a.plies.length ∧
        ∀ (n : Nat) (p q : ActivePly), a.plies[n]? = some p → x.plies[n]? = some q →
          (p.heldOn b = false → q = p) ∧
          (p.heldOn b = true → ∃ c, q = { p with bin := c } ∧
            chosen[(struckPlies b before).length + ((a.plies.take n).filter fun r => r.heldOn b).length]? = some c))) ∧
    (let listed := s.finished ++ (s.active.filter (Active.closedBy b)).filterMap fun a =>
        a.cause.map fun c => { number := a.number, outcome := .aborted c }
     v.finished = listed.drop (listed.length - 4)) ∧
    FlagsRaised s v
      ((if s.active.any (fun a => !a.isClosing && a.calledBin = some b) then [(.press, 3)] else []) ++
       (if none ∈ chosen then [(.press, 1)] else []) ++
       (if s.active.any (Active.closedBy b) then [(.press, 4)] else [])) ∧
    SamePortsButFlags s v ∧
    v = { s with bins := v.bins, active := v.active, finished := v.finished, ports := v.ports }

/-- The command is a well-formed scan message of a lane and a tag. -/
def ScanMessage (c : Instr) (lane : Fin 4) (tag : Byte) : Prop :=
  (∃ zone type size, c = .defect lane tag zone type size) ∨
  (∃ zone raw thickness temp, c = .sample lane tag zone raw thickness temp) ∨
  (∃ status, c = .laneDone lane tag status)

/-- The port and the tag of a station frame with a known command code, none for the other commands. -/
def stationFrame : Instr → Option (Port × Byte)
  | .fetch p tag | .status p tag | .readEvents p tag _ | .setAttnMask p tag _ | .readBin p tag _ _
  | .readSheet p tag _ _ _ | .portReset p tag => some (p, tag)
  | .start p tag | .stop p tag | .setSetting p tag _ _ | .getSetting p tag _ | .loadSettings p tag
  | .storeSettings p tag | .binState p tag _ _ | .laneUp p tag _ | .readFaults p tag _ | .readLines p tag _
  | .resetLine p tag => some (p, tag)
  | .whereTo p tag | .dropped p tag _ | .divert p tag _ | .emptied p tag _ => some (p, tag)
  | .order p tag _ _ _ _ | .cancel p tag _ | .nextPly p tag _ | .taken p tag _ | .uncall p tag _
  | .orderStatus p tag _ => some (p, tag)
  | .defect .. | .sample .. | .laneDone .. | .badMessage | .scanWindowExpiry _ | .gradingComplete
  | .holdTimerExpiry _ | .lineEdge _ | .selectFall _ | .frameRejected .. | .selectTimeout _
  | .unknownCommand .. | .lineReset _ | .powerOnReset | .powerOnLoad | .loadEnd _ | .storeEnd _
  | .debouncedLevelInactive _ => none

/-- The one port that may give a command, none where every port may (Table 7-8). -/
def ownPort : Instr → Option Port
  | .start .. | .stop .. | .setSetting .. | .getSetting .. | .loadSettings .. | .storeSettings .. | .binState ..
  | .laneUp .. | .readFaults .. | .readLines .. | .resetLine .. => some .line
  | .whereTo .. | .dropped .. | .divert .. | .emptied .. => some .stacker
  | .order .. | .cancel .. | .nextPly .. | .taken .. | .uncall .. | .orderStatus .. => some .press
  | .fetch .. | .status .. | .readEvents .. | .setAttnMask .. | .readBin .. | .readSheet .. | .portReset .. => none
  | .defect .. | .sample .. | .laneDone .. | .badMessage | .scanWindowExpiry _ | .gradingComplete
  | .holdTimerExpiry _ | .lineEdge _ | .selectFall _ | .frameRejected .. | .selectTimeout _
  | .unknownCommand .. | .lineReset _ | .powerOnReset | .powerOnLoad | .loadEnd _ | .storeEnd _
  | .debouncedLevelInactive _ => none

/-- The three commands that act while LRST_N is low (R153). -/
def actsInLineReset : Instr → Bool
  | .fetch .. | .status .. | .readEvents .. => true
  | _ => false

/-- The command is a reset of the part: a line reset or a power-on reset, or the rise of PORST_N, at which
a line reset may be taken (R197, R198). -/
def isReset : Instr → Bool
  | .resetLine .. | .lineReset _ | .powerOnReset | .powerOnLoad => true
  | _ => false

/-- The command may clear event flags of a port: the two that do, and the resets (R167). -/
def clearsFlags (c : Instr) : Bool :=
  match c with
  | .readEvents .. | .portReset .. => true
  | c => isReset c

/-! ## The sheet table and the intake (chapter 1) -/

/-- Every lane of the entry holds at most 24 defects (R12). -/
abbrev Entry.lanesFit (e : Entry) : Prop := ∀ k, (e.lanes.get k).defects.length ≤ 24

/-- The invariant of the sheet table: at most 16 entries, no two with one tag, the PLACED ones first
(R7, R9); one entry at most in GRADING, and a READY one waits only behind it (R27, R28); an entry is
SCANNING exactly while a lane is not final (R14); the counts in their ranges (R20). -/
abbrev TableInv (s : State) : Prop :=
  s.table.length ≤ 16 ∧
  s.table.Pairwise (fun x y => x.tag ≠ y.tag) ∧
  s.table.Pairwise (fun x y => y.isPlaced → x.isPlaced) ∧
  s.table.Pairwise (fun x y => ¬ (x.state = .grading ∧ y.state = .grading)) ∧
  ((∃ x ∈ s.table, x.state = .ready) → ∃ x ∈ s.table, x.state = .grading) ∧
  (∀ x ∈ s.table, x.isScanning = true ↔ x.allFinal = false) ∧
  (∀ x ∈ s.table, x.unscanned ≤ 255 ∧ (x.isPlaced → x.unscanned = 0) ∧ x.lanesFit) ∧
  s.ahead ≤ 255

/-- The invariant of the intake (R16, R17): the settings are valid unless it is STOPPED, and during a
load or a power-on reset it is STOPPED; SUSPENDED holds a suspended tag and no resuming entry; a
resuming entry, and the entry that a retired tag waits for, stand in the table and are SCANNING; a
STOPPED intake holds no suspended tag and no resuming entry. -/
abbrev IntakeInv (s : State) : Prop :=
  (s.intake ≠ .stopped → s.settingsValid = true) ∧
  (s.op = .loading ∨ s.porstLow = true → s.quiet = true) ∧
  (s.intake = .suspended → s.suspended.isSome ∧ s.resuming = none) ∧
  (∀ tag ∈ s.resuming, s.suspended.isSome ∧ ∃ x ∈ s.table, x.tag = tag ∧ x.isScanning) ∧
  (∀ tag ∈ s.retired.bind Retired.heir, ∃ x ∈ s.table, x.tag = tag ∧ x.isScanning) ∧
  (s.intake = .stopped → s.suspended = none ∧ s.resuming = none)

/-! ## The bins (chapter 4) -/

/-- The number of PLACED entries that stand for sheets on their way to a bin. -/
def placedTo (table : List Entry) (b : Fin 8) : Nat := (table.filter fun e => e.placement = some b).length

/-- The invariant of the bins (R69, R70, R84, R91): reserved never exceeds count, count plus inbound never
exceeds capacity, inbound is the number of PLACED entries of the bin, an OFFLINE bin is empty and
follows its settings, and every record on a stack, or on its way to one, has the placed class of
its bin. -/
abbrev BinInv (s : State) : Prop :=
  ∀ b : Fin 8,
    (s.bins.get b).reserved ≤ (s.bins.get b).count ∧
    (s.bins.get b).count + (s.bins.get b).inbound ≤ (s.bins.get b).capacity ∧
    (s.bins.get b).inbound = placedTo s.table b ∧
    (1 ≤ (s.bins.get b).capacity ∧ (s.bins.get b).capacity ≤ 300 ∧ (s.bins.get b).margin ≤ 50) ∧
    ((s.bins.get b).mode = .offline →
      (s.bins.get b).count = 0 ∧ (s.bins.get b).inbound = 0 ∧ (s.bins.get b).reserved = 0 ∧
      (s.bins.get b).cls = s.ram.binClass.get b ∧ (s.bins.get b).capacity = s.ram.binCapacity.get b ∧
      (s.bins.get b).margin = s.ram.binMargin.get b) ∧
    (∀ r ∈ (s.bins.get b).stack, r.placedClass = some (s.bins.get b).cls) ∧
    (∀ e ∈ s.table, e.placement = some b → e.result.bind SheetRecord.placedClass = some (s.bins.get b).cls)

/-! ## The orders (chapters 5 and 6) -/

/-- A recipe that R99 allows: an odd number of plies, 3 to 15. -/
abbrev recipeSize (n : Nat) : Prop := n % 2 = 1 ∧ 3 ≤ n ∧ n ≤ 15

/-- An active order that its state fits (R109, R120, R121, R128, R132): the taken plies come first and
leave one untaken; a called ply is the next ply, and is planned; not both a called ply and a
withdrawn mark; a CLOSING order holds its called ply alone and no timer; any other order has the
state that its plan and its call give it, and a timer that runs. -/
abbrev Active.fits (a : Active) : Prop :=
  recipeSize a.plies.length ∧
  a.plies.Pairwise (fun p q => q.taken → p.taken) ∧
  (∃ p ∈ a.plies, p.taken = false) ∧
  (∀ n ∈ a.called, a.next.map Prod.fst = some n ∧ a.calledBin.isSome) ∧
  (∀ n ∈ a.withdrawn, a.next.map Prod.fst = some n ∧ a.called = none) ∧
  (a.isClosing = true → a.called.isSome ∧ a.hold = none ∧ a.heldBins a.called = []) ∧
  (a.isClosing = false → a.hold.isSome ∧ a.state = workedOut a.plies a.called)

/-- The untaken plies of active orders that a bin is planned for. -/
def plannedOn (active : List Active) (b : Fin 8) : Nat :=
  (active.flatMap fun a => a.plies.filter fun p => !p.taken && p.bin = some b).length

/-- The invariant of the orders: at most 8 wait, REMAKE ahead of NORMAL, at most 2 are active in slots of
their own, no two of these share a number (R101, R109), every order fits, the finished list holds at
most 4 (R113), and the reserved of every bin is the number of untaken plies planned on it (R91). -/
abbrev OrderInv (s : State) : Prop :=
  s.queue.length ≤ 8 ∧
  s.queue.Pairwise (fun x y => y.cls = .remake → x.cls = .remake) ∧
  (s.queue.map Order.number ++ s.active.map Active.number).Pairwise (· ≠ ·) ∧
  s.active.Pairwise (fun x y => x.slot ≠ y.slot) ∧
  (∀ o ∈ s.queue, recipeSize o.plies.length) ∧
  (∀ a ∈ s.active, a.fits) ∧
  s.finished.length ≤ 4 ∧
  (∀ b : Fin 8, (s.bins.get b).reserved = plannedOn s.active b)

/-! ## Settings, faults and flags (chapters 8 and 10) -/

/-- Every setting holds a value of its range or code set (Table 10-2). -/
abbrev SettingsInv (s : State) : Prop := ∀ x : Setting, x.domain.holds (s.ram.get x) = true

/-- The invariant of the fault state (R171, R172): the first-fault record is present exactly while a kind
is pending; LANE_DOWN is pending exactly while a lane is DOWN; SETTINGS_INVALID is pending only
while the settings-valid flag is false; counts in their ranges, and no kind pending with count 0. -/
abbrev FaultInv (s : State) : Prop :=
  (s.firstFault.isSome = anyPending s.faults) ∧
  ((s.faults.get .laneDown).pending = s.anyDown) ∧
  ((s.faults.get .settingsInvalid).pending = true → s.settingsValid = false) ∧
  (∀ k : FaultKind, (s.faults.get k).count ≤ 255 ∧
    ((s.faults.get k).pending = true → (s.faults.get k).count ≠ 0)) ∧
  (∀ r ∈ s.firstFault, r.later ≤ 255) ∧
  (∀ k : Fin 4, (s.health.get k).count ≤ 15)

/-- The bits that name a flag on a port (Table 8-1). -/
def namedFlags : Port → Word
  | .line => 0x80FF
  | .stacker => 0x8081
  | .press => 0x801F

/-- The bits that name no flag are never set (R167), and every answer fits one FETCH window (R155). -/
abbrev PortInv (s : State) : Prop :=
  ∀ p, (s.port p).flags &&& ~~~namedFlags p = 0 ∧
    ∀ a ∈ (s.port p).answer, a.payload.length ≤ 29

/-- A line has a debounced level exactly when its function is an input (R181), and only then a latch can
be set (R182). -/
abbrev LineInv (s : State) : Prop :=
  ∀ k : Fin 8, (s.lines.get k).debounced.isSome = (s.ram.lineFunction.get k).isInput ∧
    ((s.lines.get k).latch = true → (s.ram.lineFunction.get k).isInput = true)

/-- A place on the EEPROM bus that fits the operation (R166, R192, R195): a read is of the image of 215 bytes, after
the four bytes that begin it; writes and their waits belong to a store, and a wait has not passed 20 ms. -/
def Bus.fits (op : Operation) : Bus → Bool
  | .idle => true
  | .reading sent bytes => op != .idle && sent ≤ 4 && bytes.length < 215 && (bytes.isEmpty || sent = 4)
  | .writing index sent => op = .storing && index < 215 && sent < 4
  | .waiting index waited => op = .storing && index < 215 && waited < 20

/-- The bus is where the operation of the settings store can have it, and idle while PORST_N is low (R196). -/
abbrev BusInv (s : State) : Prop := s.bus.fits s.op = true ∧ (s.porstLow = true → s.bus = .idle)

/-- Every invariant. -/
abbrev Inv (s : State) : Prop :=
  TableInv s ∧ IntakeInv s ∧ BinInv s ∧ OrderInv s ∧ SettingsInv s ∧ FaultInv s ∧ PortInv s ∧ LineInv s ∧ BusInv s

end Sys2Proof.Machine
end

