-- ==== Sys2Proof/Certificates/Slice0/Obligations.lean ====
section
/-! DEFINITION. The statements for the provers. Each docstring names the rules of spec/ that a statement
formalises; what rests on a choice of the model says so and names its log entry. -/

open Sys2Proof Sys2Proof.Machine

/-! ## The queue and the step -/

/-- The command at the front of the queue is run on the state with the queue's rest; with no command waiting the
front input is taken, and with no input either the block idles (the model's two lists, logs 1 and 2). R1, R181, R197,
R198: what an input does on the scan link, at a line's pin and at the reset pins; selects and clocks have statements of
their own. R10, R15, R29, R128, R152, R181, R195: a millisecond moves every timer on, and the commands of the timers
that have run out, and of an engine at work, join the queue; that time passes in these steps and the engine
completes with the next of them is the model's choice (logs 2, 8 and 11), as are a LRST_N held low longer than its
command (log 5), that a change of a pin ends the lapse of a line's pending change (the field lapsed, log 19), and that
the EEPROM's 20 ms wait is counted by the input ms (log 23). -/
def Obligations.StepRunsTheFrontCommandOrIdles : Prop :=
  (∀ (c : Instr) (rest : List Instr) (s : State),
    step { s with pending := c :: rest } = exec c { s with pending := rest }) ∧
  (∀ s : State, s.pending = [] → s.inputs = [] → step s = .next s) ∧
  (∀ (i : Input) (rest : List Input) (s : State), s.pending = [] → s.inputs = i :: rest →
    step s = .next ({ s with inputs := rest }.takeInput i)) ∧
  ∀ s : State,
    let joined (c : Instr) : State := { s with pending := s.pending ++ [c] }
    (∀ x, s.takeInput (.scanChar x) = if s.porstLow then s else { s with rx := s.rx ++ [x] }) ∧
    (s.porstLow = true ∨ s.rx = [] → s.takeInput .scanIdle = s) ∧
    (s.porstLow = false → s.rx ≠ [] →
      s.takeInput .scanIdle = { joined (readMessage s.rx) with rx := [] }) ∧
    (∀ p, s.takeInput (.selectFall p) = joined (.selectFall p)) ∧
    (∀ k high, s.takeInput (.pin k high) = if (s.lines.get k).pin = high then s else
      { s with lines := s.lines.set k { s.lines.get k with pin := high, differ := 0, lapsed := none } }) ∧
    (∀ n, s.takeInput (.lrstFall n) = if 2 ≤ n ∧ s.lrstLow = false then joined (.lineReset true) else s) ∧
    s.takeInput .lrstRise = { s with lrstLow := false } ∧
    s.takeInput .porstFall = joined .powerOnReset ∧ s.takeInput .porstRise = joined .powerOnLoad ∧
    (s.porstLow = true → s.takeInput .ms = s) ∧
    (s.porstLow = false → ∃ (t : State) (due : List Instr), s.takeInput .ms = t ∧
      t = { s with
        table := t.table, active := t.active, ports := t.ports, lines := t.lines, bus := t.bus
        pending := s.pending ++ due } ∧
      t.table = s.table.map (fun e => match e.state with
        | .scanning n => { e with state := .scanning (n - 1) }
        | .ready | .grading | .graded _ | .placed _ _ => e) ∧
      t.active = s.active.map (fun a => { a with hold := a.hold.map fun n => n - 1 }) ∧
      (∀ p, t.port p = { s.port p with window := match (s.port p).window with
        | .opened b answer n => .opened b answer (n - 1)
        | .idle => .idle
        | .expired => .expired
        | .ignored => .ignored }) ∧
      (∀ k, t.lines.get k = match (s.lines.get k).debounced with
        | none => s.lines.get k
        | some d => { s.lines.get k with
            differ := if d = ((s.lines.get k).pin != s.ram.lineInvert.get k) then 0
              else min 8 ((s.lines.get k).differ + 1) }) ∧
      ((∀ i n, s.bus ≠ .waiting i n) → t.bus = s.bus) ∧
      (∀ i n, s.bus = .waiting i n → t.bus = if n + 1 < 20 then .waiting i (n + 1) else .idle) ∧
      ∀ c, c ∈ due ↔
        (c = .gradingComplete ∧ ∃ e ∈ s.table, e.state = .grading) ∨
        (∃ e ∈ t.table, e.state = .scanning 0 ∧ c = .scanWindowExpiry e.tag) ∨
        (∃ a ∈ t.active, a.hold = some 0 ∧ c = .holdTimerExpiry a.slot) ∨
        (∃ p b answer, (t.port p).window = .opened b answer 0 ∧ c = .selectTimeout p) ∨
        (∃ k, 8 ≤ (t.lines.get k).differ ∧
          (((t.lines.get k).debounced = some false ∧ c = .lineEdge k) ∨
           ((t.lines.get k).debounced = some true ∧ c = .debouncedLevelInactive k))) ∨
        (c = .storeEnd .waitPassed ∧ ∃ i n, s.bus = .waiting i n ∧ 20 ≤ n + 1))

/-- Every command, in every state, is answered by a next state: the spec stops the part nowhere (R151, R153; section
7.4, chapter 8). That the queue and the input list are then as they were is the model's own (logs 1 and 2; log 16 at
PORST_N), and so is that an event whose premise does not hold completes without effect (log 4). -/
def Obligations.EveryCommandCompletes : Prop :=
  ∀ (c : Instr) (s : State), ∃ t, exec c s = .next t ∧ t.pending = s.pending ∧ t.inputs = s.inputs

/-! ## Wire formats -/

/-- The frame written for a well-formed station command, clocked in bit by bit, is taken as that command
on its port (R146, R149, R153, R161, R162; Tables 7-8, 7-9). -/
def Obligations.FrameIsTakenAsItsCommand : Prop :=
  ∀ (c : Instr) (p : Port) (f : List Byte), c.wellFormed = true → frameOf c = some (p, f) →
    decodeFrame p (Shift.ofBytes f) = some c

/-- The message written for a scan command, received without framing errors, is read as that command (R2,
R165; Table 7-14). -/
def Obligations.MessageIsReadAsItsCommand : Prop :=
  ∀ (c : Instr) (m : List Byte), messageOf c = some m →
    readMessage (m.map fun b => { byte := b, framed := true }) = c

/-- R149: what the rise of select makes of the bits received, its cases in order, every byte of a long frame
looked at. R146, R149, R152: in an open window each rising clock edge takes one bit; the rise of select hands on the
command of the frame, ends a window without one, and takes no frame from a port with no open window. There, as while
select is high, SDO is released and clock edges take no bit and present none (edges and levels are the model's inputs,
log 2). -/
def Obligations.RiseOfSelectClassifiesTheFrame : Prop :=
  (∀ (s : State) (p : Port),
    ((∀ b answer n, (s.port p).window ≠ .opened b answer n) →
      (s.port p).sdo = none ∧
      s.takeInput (.selectRise p) = s.setPort p { s.port p with window := .idle } ∧
      (∀ bit, s.takeInput (.clockRise p bit) = s.setPort p { s.port p with sck := true }) ∧
      s.takeInput (.clockFall p) = s.setPort p { s.port p with sck := false }) ∧
    ∀ b answer n, (s.port p).window = .opened b answer n →
      (decodeFrame p (s.port p).shift = none →
        s.takeInput (.selectRise p) = s.setPort p { s.port p with window := .idle }) ∧
      (∀ c, decodeFrame p (s.port p).shift = some c →
        s.takeInput (.selectRise p) = { s with pending := s.pending ++ [c] }) ∧
      ∀ bit,
        ((s.port p).sck = false → s.takeInput (.clockRise p bit) =
          s.setPort p { s.port p with sck := true, shift := (s.port p).shift.clock bit }) ∧
        ((s.port p).sck = true → s.takeInput (.clockRise p bit) = s)) ∧
  ∀ (p : Port),
    decodeFrame p Shift.fresh = none ∧
    (∀ bits : List Bool, bits.length % 8 ≠ 0 →
      decodeFrame p (bits.foldl Shift.clock Shift.fresh) = some (.frameRejected p .bitCount)) ∧
    ∀ f : List Byte, f ≠ [] →
      ((∀ b ∈ f, b = 0x00) → decodeFrame p (Shift.ofBytes f) = some (.frameRejected p .stuckLow)) ∧
      ((∀ b ∈ f, b = 0xFF) → decodeFrame p (Shift.ofBytes f) = some (.frameRejected p .stuckHigh)) ∧
      ((∃ b ∈ f, b ≠ 0x00) → (∃ b ∈ f, b ≠ 0xFF) →
        (∀ n, frameLength f = some n → n ≠ f.length →
          decodeFrame p (Shift.ofBytes f) = some (.frameRejected p .length)) ∧
        ((frameLength f = none ∨ frameLength f = some f.length) →
          decodeFrame p (Shift.ofBytes f) = some (readFrame p (f.take 32))))

/-- R2: a message is well formed exactly when every test holds; a bad one is counted, saturating, sets
BAD_MESSAGE on the L port, and touches nothing else, in every intake state and whatever LRST_N. -/
def Obligations.BadMessagesAreExactlyCounted : Prop :=
  (∀ m : List RxChar,
    let b (k : Nat) : Nat := (byteAt (m.map RxChar.byte) k).toNat
    readMessage m ≠ .badMessage ↔
      m.length = 8 ∧ (∀ c ∈ m, c.framed = true) ∧ ((m.map fun c => c.byte.toNat).sum) % 256 = 0 ∧
      ((b 0 / 16 = 1 ∧ b 2 / 16 < 8 ∧ b 2 % 16 < 7) ∨ (b 0 / 16 = 2 ∧ b 2 / 16 < 8) ∨
        (b 0 / 16 = 3 ∧ b 2 < 2))) ∧
  (∀ s : State, s.porstLow = false →
    exec .badMessage s = .next ({ s with bad := min 65535 (s.bad + 1) }.setPort .line
      { s.port .line with flags := (s.port .line).flags ||| 0x0008 }))

/-! ## Scan messages -/

/-- R3, R4, R11 to R13: at a WAITING or OPEN lane of a SCANNING entry a DEFECT is appended, a size of 0 as 1, and
with 24 records stored makes the lane MISSING(OVERFLOW) instead; a SAMPLE fills the slot of its zone,
replacing what it held, its temperature clamped; a LANE_DONE makes the lane DONE or MISSING(HEAD). While
another lane is not final nothing else changes. -/
def Obligations.ReadingsAreStoredInTheirLane : Prop :=
  ∀ (s : State) (older younger : List Entry) (e : Entry) (left : Nat) (lane : Fin 4),
    s.porstLow = false → s.table = older ++ e :: younger → (∀ x ∈ older ++ younger, x.tag ≠ e.tag) →
    e.state = .scanning left → (e.lanes.get lane).state.final = false →
    let filed (l : Lane) : State :=
      { s with table := older ++ { e with lanes := e.lanes.set lane l } :: younger }
    ((e.lanes.get lane).defects.length < 24 → ∀ zone type size,
      exec (.defect lane e.tag zone type size) s = .next (filed { e.lanes.get lane with
        state := .opened
        defects := (e.lanes.get lane).defects ++ [{ zone := zone, type := type, size := max 1 size.toNat }] })) ∧
    (∀ zone raw thickness temp,
      exec (.sample lane e.tag zone raw thickness temp) s = .next (filed { e.lanes.get lane with
        state := .opened
        samples := (e.lanes.get lane).samples.set zone (some
          { raw := raw.toNat, thickness := thickness.toNat
            temp := if temp.toInt < -20 then -20 else if 120 < temp.toInt then 120 else temp.toInt }) })) ∧
    ∀ other, other ≠ lane → (e.lanes.get other).state.final = false →
      (24 ≤ (e.lanes.get lane).defects.length → ∀ zone type size,
        exec (.defect lane e.tag zone type size) s =
          .next (filed { e.lanes.get lane with state := .missing .overflow })) ∧
      exec (.laneDone lane e.tag .ok) s = .next (filed { e.lanes.get lane with state := .done }) ∧
      exec (.laneDone lane e.tag .failed) s = .next (filed { e.lanes.get lane with state := .missing .head })

/-- R14, R16, R28: the delivery that makes the last lane final, by LANE_DONE or by an overflow, makes the
entry READY; a free engine takes it at once, and the tags held for it are let go. -/
def Obligations.LastFinalLaneMakesTheEntryReady : Prop :=
  ∀ (s : State) (older younger : List Entry) (e : Entry) (left : Nat) (lane : Fin 4) (c : Instr) (l : Lane),
    s.porstLow = false → s.table = older ++ e :: younger → (∀ x ∈ older ++ younger, x.tag ≠ e.tag) →
    e.state = .scanning left → (e.lanes.get lane).state.final = false →
    (∀ other, other ≠ lane → (e.lanes.get other).state.final = true) →
    ((c = .laneDone lane e.tag .ok ∧ l = { e.lanes.get lane with state := .done }) ∨
     (c = .laneDone lane e.tag .failed ∧ l = { e.lanes.get lane with state := .missing .head }) ∨
     (∃ zone type size, c = .defect lane e.tag zone type size ∧ 24 ≤ (e.lanes.get lane).defects.length ∧
        l = { e.lanes.get lane with state := .missing .overflow })) →
    ∀ busy : Bool, (busy = true ↔ ∃ x ∈ older ++ younger, x.state = .grading) →
    (busy = false → ∀ x ∈ older ++ younger, x.state ≠ .ready) →
    exec c s = .next { s with
      table := older ++ { e with
        state := if busy then .ready else .grading
        lanes := e.lanes.set lane l } :: younger
      suspended := if s.resuming = some e.tag then none else s.suspended
      resuming := if s.resuming = some e.tag then none else s.resuming
      retired := if s.retired.bind Retired.heir = some e.tag then none else s.retired }

/-- R15: at the expiry of its scan window every WAITING or OPEN lane of an entry becomes MISSING(TIMEOUT)
with what it stored, and the entry becomes READY; a free engine takes it at once. -/
def Obligations.ScanWindowExpiryTimesOutTheLanes : Prop :=
  ∀ (s : State) (older younger : List Entry) (e : Entry) (left : Nat),
    s.porstLow = false → s.table = older ++ e :: younger → (∀ x ∈ older ++ younger, x.tag ≠ e.tag) →
    e.state = .scanning left →
    ∀ busy : Bool, (busy = true ↔ ∃ x ∈ older ++ younger, x.state = .grading) →
    (busy = false → ∀ x ∈ older ++ younger, x.state ≠ .ready) →
    ∃ lanes : Quad Lane,
      (∀ k, lanes.get k = if (e.lanes.get k).state.final then e.lanes.get k
        else { e.lanes.get k with state := .missing .timeout }) ∧
      exec (.scanWindowExpiry e.tag) s = .next { s with
        table := older ++ { e with
          state := if busy then .ready else .grading
          lanes := lanes } :: younger
        suspended := if s.resuming = some e.tag then none else s.suspended
        resuming := if s.resuming = some e.tag then none else s.resuming
        retired := if s.retired.bind Retired.heir = some e.tag then none else s.retired }

/-- R9, R11: a message for an entry that is no longer SCANNING, for a lane that is DONE or MISSING(HEAD), or
of an unknown tag while the intake is STOPPED, is a stray and counted, saturating; one for a lane that
overflowed or is DOWN, or with the suspended or the retired tag, changes nothing. -/
def Obligations.DiscardedMessagesAreCountedOrNot : Prop :=
  ∀ (s : State) (c : Instr) (lane : Fin 4) (tag : Byte), s.porstLow = false → ScanMessage c lane tag →
    (((∃ e, s.entryOf tag = some e ∧
        (e.isScanning = false ∨ (e.lanes.get lane).state = .done ∨ (e.lanes.get lane).state = .missing .head)) ∨
      (s.entryOf tag = none ∧ s.intake = .stopped)) →
      exec c s = .next { s with stray := min 65535 (s.stray + 1) }) ∧
    (((∃ e, s.entryOf tag = some e ∧ e.isScanning = true ∧
        ((e.lanes.get lane).state = .missing .overflow ∨ (e.lanes.get lane).state = .missing .down)) ∨
      (s.entryOf tag = none ∧ s.intake ≠ .stopped ∧
        (s.suspended = some tag ∨ ∃ r, s.retired = some r ∧ r.tag = tag))) →
      exec c s = .next s)

/-- R8, R10, R16: a new tag, with room in the table and the intake not STOPPED, opens an entry at the young
end with the next number, its DOWN lanes MISSING(DOWN), its window at SCAN_WINDOW; a SUSPENDED intake
becomes RUNNING with it as the resuming entry, and it becomes the entry that a retired tag waits for (its heir,
log 15). R3, R4, R11: the opening message is delivered to its lane, a DOWN one apart. R14, R16, R28: an entry whose lanes
are all final is READY at once, a free engine takes it, and the tags held for it are let go. -/
def Obligations.NewTagOpensAnEntry : Prop :=
  ∀ (s : State) (c : Instr) (lane : Fin 4) (tag : Byte), s.porstLow = false → ScanMessage c lane tag →
    TableInv s → IntakeInv s → s.entryOf tag = none → s.intake ≠ .stopped →
    s.suspended ≠ some tag → (∀ r, s.retired = some r → r.tag ≠ tag) → s.table.length < 16 →
    ∃ t e, exec c s = .next t ∧ t.table = s.table ++ [e] ∧
      e.sheet = s.sheetCounter ∧ t.sheetCounter = s.sheetCounter + 1 ∧ e.tag = tag ∧ e.unscanned = 0 ∧
      (∀ k, (s.health.get k).down = true → e.lanes.get k = Lane.empty (.missing .down)) ∧
      (∀ k, k ≠ lane → (s.health.get k).down = false → e.lanes.get k = Lane.empty .waiting) ∧
      ((s.health.get lane).down = false →
        (∀ zone type size, c = .defect lane tag zone type size → e.lanes.get lane = { Lane.empty .opened with
          defects := [{ zone := zone, type := type, size := max 1 size.toNat }] }) ∧
        (∀ zone raw thickness temp, c = .sample lane tag zone raw thickness temp →
          e.lanes.get lane = { Lane.empty .opened with
            samples := (Lane.empty .opened).samples.set zone (some
              { raw := raw.toNat, thickness := thickness.toNat
                temp := if temp.toInt < -20 then -20 else if 120 < temp.toInt then 120 else temp.toInt }) }) ∧
        (c = .laneDone lane tag .ok → e.lanes.get lane = Lane.empty .done) ∧
        (c = .laneDone lane tag .failed → e.lanes.get lane = Lane.empty (.missing .head))) ∧
      (e.allFinal = true ↔ ∀ k, (e.lanes.get k).state.final = true) ∧
      (e.allFinal = false → e.state = .scanning s.ram.scanWindow) ∧
      (e.allFinal = true → (∃ x ∈ s.table, x.state = .grading) → e.state = .ready) ∧
      (e.allFinal = true → (∀ x ∈ s.table, x.state ≠ .grading) → e.state = .grading) ∧
      (s.retired = none → t.retired = none) ∧
      (∀ r, s.retired = some r → (r.heir ≠ none → t.retired = some r) ∧
        (r.heir = none → t.retired = if e.allFinal then none else some { r with heir := some tag })) ∧
      t.intake = .running ∧
      t.suspended = (if s.intake = .suspended ∧ e.allFinal = true then none else s.suspended) ∧
      t.resuming = (if s.intake = .suspended ∧ e.allFinal = false then some tag
        else if s.intake = .suspended then none else s.resuming) ∧
      FlagsRaised s t (holdFlag s t) ∧ SamePortsButFlags s t ∧ SameReceiver s t ∧ t.ahead = s.ahead ∧
      t.health = s.health ∧ t.bins = s.bins ∧ SameOrders s t ∧ SameFaults s t ∧ t.lines = s.lines ∧
      SameSettings s t ∧ SamePins s t

/-- R19, R20: a new tag that finds the table full is a missed sheet: counted, flagged, the intake SUSPENDED
with its tag, and counted after the youngest entry when that is unplaced, else as pending; a count that
comes to 255 or is found there is an occurrence of SYNC_LOST. -/
def Obligations.NewTagAtAFullTableIsAMissedSheet : Prop :=
  ∀ (s : State) (c : Instr) (lane : Fin 4) (tag : Byte) (older : List Entry) (y : Entry),
    s.porstLow = false → ScanMessage c lane tag → TableInv s →
    s.table = older ++ [y] → s.table.length = 16 → s.entryOf tag = none → s.intake ≠ .stopped →
    s.suspended ≠ some tag → (∀ r, s.retired = some r → r.tag ≠ tag) →
    ∃ t, exec c s = .next t ∧
      t.missed = min 65535 (s.missed + 1) ∧ t.intake = .suspended ∧ t.suspended = some tag ∧ t.resuming = none ∧
      t.retired = s.retired ∧ t.sheetCounter = s.sheetCounter ∧
      (y.isPlaced = true → t.table = s.table ∧ t.ahead = min 255 (s.ahead + 1)) ∧
      (y.isPlaced = false → t.ahead = s.ahead ∧
        t.table = older ++ [{ y with unscanned := min 255 (y.unscanned + 1) }]) ∧
      (∀ lost : Bool, (lost = true ↔ 254 ≤ if y.isPlaced then s.ahead else y.unscanned) →
        (lost = true → t.faults = (s.faultOccurs .syncLost).faults ∧
          t.firstFault = (s.faultOccurs .syncLost).firstFault) ∧
        (lost = false → SameFaults s t) ∧
        FlagsRaised s t ((.line, 0) ::
          if lost && !(s.faults.get .syncLost).pending then [(.line, 6)] else [])) ∧
      SamePortsButFlags s t ∧ t.rx = s.rx ∧ t.bad = s.bad ∧ t.stray = s.stray ∧ t.health = s.health ∧
      t.bins = s.bins ∧ SameOrders s t ∧ t.lines = s.lines ∧ SameSettings s t ∧ SamePins s t

/-! ## Grading -/

/-- R32, R60, R22, R23, Table 3-5: completion of grading writes the result, field by field from the measurement set and
the grade decision, updates the four lane health records, sets
HEAD_READY when the entry is the oldest unplaced one, and lets the engine take the oldest READY entry. R63, R171,
R172: each lane that becomes DOWN is one occurrence of LANE_DOWN, the lanes in their order (log 18), and no other fault
kind changes. -/
def Obligations.GradingCompletesWhole : Prop :=
  ∀ (s : State) (older younger : List Entry) (e : Entry),
    s.porstLow = false → TableInv s → s.table = older ++ e :: younger → e.state = .grading →
    let m := measure s.ram e.lanes
    let result : SheetRecord := {
      sheet := e.sheet, asIs := asIsGrade s.ram m, disposition := disposition s.ram m, placedClass := none
      mean := m.mean, wetspot := m.wetspot, worstZone := m.maxZ, total := m.total
      openCount := min 255 m.openCount, thickDev := m.thickDev, missing := m.missing, degraded := false }
    let graded : Entry := { e with state := .graded result }
    let failed (k : Fin 4) : Bool := (e.lanes.get k).state.final && (e.lanes.get k).state ≠ .done &&
      (e.lanes.get k).state ≠ .missing .down
    let count (k : Fin 4) : Nat := min 15 ((s.health.get k).count + 1)
    let goesDown (k : Fin 4) : Bool := failed k && !(s.health.get k).down && s.ram.laneDownCount ≤ count k
    ∃ t, exec .gradingComplete s = .next t ∧
      ((∀ x ∈ older ++ younger, x.state ≠ .ready) → t.table = older ++ graded :: younger) ∧
      (∀ before x after, older ++ graded :: younger = before ++ x :: after → x.state = .ready →
        (∀ y ∈ before, y.state ≠ .ready) → t.table = before ++ { x with state := .grading } :: after) ∧
      (∀ k, t.health.get k =
        if (e.lanes.get k).state = .done then { s.health.get k with count := 0 }
        else if failed k then { count := count k, down := (s.health.get k).down || goesDown k }
        else s.health.get k) ∧
      FlagsRaised s t
        ((if older.all Entry.isPlaced then [(Port.stacker, 0)] else []) ++
         (if fourLanes.any failed then [(.line, 1)] else []) ++
         (if fourLanes.any goesDown then [(.line, 2)] else []) ++
         (if fourLanes.any goesDown && !(s.faults.get .laneDown).pending then [(.line, 6)] else [])) ∧
      t.faults.get .laneDown = {
        pending := (s.faults.get .laneDown).pending || fourLanes.any goesDown
        count := if fourLanes.any goesDown then
          min 255 ((s.faults.get .laneDown).count + (fourLanes.filter goesDown).length)
          else (s.faults.get .laneDown).count } ∧
      (∀ j, j ≠ .laneDown → t.faults.get j = s.faults.get j) ∧
      (fourLanes.any goesDown = false ∨ (s.faults.get .laneDown).pending = true → t.firstFault = s.firstFault) ∧
      (fourLanes.any goesDown = true → (s.faults.get .laneDown).pending = false →
        ((∀ j, (s.faults.get j).pending = false) →
          t.firstFault = some { kind := .laneDown, sheet := s.sheetCounter - 1, later := 0 }) ∧
        ((∃ j, (s.faults.get j).pending = true) →
          t.firstFault = s.firstFault.map fun r => { r with later := min 255 (r.later + 1) })) ∧
      SamePortsButFlags s t ∧ SameReceiver s t ∧ SameIntake s t ∧ t.ahead = s.ahead ∧
      t.sheetCounter = s.sheetCounter ∧ t.bins = s.bins ∧ SameOrders s t ∧ t.lines = s.lines ∧
      SameSettings s t ∧ SamePins s t

/-- R35, R36: for a sample of a lane, the converted value m and the temperature correction c are the stated
floors of its reading, its temperature and the lane's settings, in 0..1022 and −157..394. R37: its corrected value
is m less c, which lies in −394..1179, clamped to 0..400. -/
def Obligations.MoistureOfASample : Prop :=
  ∀ (r : Settings) (k : Fin 4) (x : Sample),
    let raw := x.raw
    let low := r.laneZero.get k
    let span := r.laneSpan.get k
    let tempco := r.laneTempco.get k
    let product : Int := (x.temp - 20) * tempco
    raw ≤ 4095 → low ≤ 4095 → span ≤ 1023 → tempco ≤ 63 → -20 ≤ x.temp → x.temp ≤ 120 →
    let m := converted raw low span
    let c := correction x.temp tempco
    let v : Int := moisture r k x
    (m * 4096 ≤ (raw - low) * span ∧ (raw - low) * span < (m + 1) * 4096 ∧ (raw - low) * span ≤ 4189185 ∧
      m ≤ 1022 ∧ (raw ≤ low → m = 0) ∧ (span = 0 → m = 0) ∧ (low = 0 → span = 512 → m = raw / 8)) ∧
    (c * 16 ≤ product + 8 ∧ product + 8 < (c + 1) * 16 ∧ -2520 ≤ product ∧ product ≤ 6300 ∧
      -2512 ≤ product + 8 ∧ product + 8 ≤ 6308 ∧ -157 ≤ c ∧ c ≤ 394 ∧
      (c < 0 ↔ x.temp < 20 ∧ 8 < -product) ∧ (x.temp = 20 → c = 0) ∧ (tempco = 0 → c = 0) ∧
      (tempco = 16 → c = x.temp - 20)) ∧
    (-394 ≤ (m : Int) - c ∧ (m : Int) - c ≤ 1179 ∧ ((m : Int) - c < 0 → v = 0) ∧
      (400 < (m : Int) - c → v = 400) ∧ (0 ≤ (m : Int) - c → (m : Int) - c ≤ 400 → v = m - c))

/-- R38, R39: with a valid sample, one of a filled slot of a DONE lane, the sheet mean is the average of the corrected
values of all of them, each by its own lane's calibration, rounded with halves going up, in 0..400; the wetspot is the
largest of them, and never less than the mean. -/
def Obligations.SheetMeanAndWetspot : Prop :=
  ∀ (r : Settings) (ls : Quad Lane),
    let done : List (Fin 4) := (List.finRange 4).filter fun k => (ls.get k).state = .done
    let values : List Nat := done.flatMap fun k =>
      (List.finRange 8).filterMap fun z => ((ls.get k).samples.get z).map (moisture r k)
    let m := measure r ls
    m.n = values.length ∧
    (values ≠ [] →
      m.mean = (values.sum + values.length / 2) / values.length ∧
      m.mean * m.n ≤ values.sum + m.n / 2 ∧ values.sum + m.n / 2 < (m.mean + 1) * m.n ∧
      values.sum ≤ 12800 ∧ m.mean ≤ 400 ∧
      m.wetspot ∈ values ∧ (∀ v ∈ values, v ≤ m.wetspot) ∧ m.wetspot ≤ 400 ∧ m.mean ≤ m.wetspot)

/-- Table 2-6 (R34, R40 to R48): the sample count, the thickness deviation, maxZ, T, K, maxZ′, T′ and Ls are worked out,
as their rules define them, from the points of the defects and from the samples of the DONE lanes, and of lanes that
are final the others are the missing-lane set and f. Every figure lies in its range, for lanes that hold at most
24 defects each and settings in their ranges; with no sample the unknown figures are 0, and the
patch-adjusted figures never exceed their counterparts. What a missing lane stored changes no figure. -/
def Obligations.MeasurementSetIsOfTheDoneLanes : Prop :=
  (∀ (s : State) (ls : Quad Lane), SettingsInv s →
    (∀ k, (ls.get k).defects.length ≤ 24 ∧ (∀ d ∈ (ls.get k).defects, d.size ≤ 1023) ∧
      ∀ z x, (ls.get k).samples.get z = some x → x.thickness ≤ 8191) →
    let m := measure s.ram ls
    m.n ≤ 32 ∧ m.mean ≤ m.wetspot ∧ m.wetspot ≤ 400 ∧ m.thickDev ≤ 7691 ∧ m.maxZ ≤ 1023 ∧ m.total ≤ 32736 ∧
    m.openCount ≤ 96 ∧ m.maxZ' ≤ m.maxZ ∧ m.total' ≤ m.total ∧ m.split ≤ 1023 ∧ m.f ≤ 4 ∧
    (m.n = 0 → m.mean = 0 ∧ m.wetspot = 0 ∧ m.thickDev = 0)) ∧
  (∀ (r : Settings) (ls : Quad Lane),
    let done : List (Fin 4) := (List.finRange 4).filter fun k => (ls.get k).state = .done
    let zones : List (Fin 4 × Fin 8) := done.flatMap fun k => (List.finRange 8).map fun z => (k, z)
    let samples : List Sample := zones.filterMap fun kz => (ls.get kz.1).samples.get kz.2
    let defects : List Defect := done.flatMap fun k => (ls.get k).defects
    let p (d : Defect) : Nat := if d.size < r.defectFloor.get d.type then 0
      else min 255 (r.defectBase.get d.type + r.defectSlope.get d.type * d.size / 64)
    let patched (d : Defect) : Bool := d.type = .looseKnot || d.type = .hole || d.type = .split
    let score (counts : Defect → Bool) (kz : Fin 4 × Fin 8) : Nat :=
      min 1023 ((((ls.get kz.1).defects.filter fun d => d.zone = kz.2 && counts d).map p).sum)
    let largestOf (xs : List Nat) (x : Nat) : Prop := (xs = [] → x = 0) ∧ (xs ≠ [] → x ∈ xs) ∧ ∀ y ∈ xs, y ≤ x
    let m := measure r ls
    m.n = samples.length ∧
    largestOf (samples.map fun x => ((x.thickness : Int) - r.nominalThick).natAbs) m.thickDev ∧
    largestOf (zones.map (score fun _ => true)) m.maxZ ∧
    m.total = (zones.map (score fun _ => true)).sum ∧
    m.openCount = (defects.filter fun d => patched d && 0 < p d).length ∧
    largestOf (zones.map (score fun d => !patched d)) m.maxZ' ∧
    m.total' = (zones.map (score fun d => !patched d)).sum ∧
    largestOf ((defects.filter fun d => d.type = .split && 0 < p d).map Defect.size) m.split ∧
    ((∀ k, (ls.get k).state.final = true) →
      (∀ k, m.missing.get k = true ↔ ∃ cause, (ls.get k).state = .missing cause) ∧
      m.f = ((List.finRange 4).filter fun k => m.missing.get k).length)) ∧
  ∀ (r : Settings) (ls ls' : Quad Lane),
    (∀ k, (ls.get k).state = .done ↔ (ls'.get k).state = .done) →
    (∀ k, (ls.get k).state = .done → ls.get k = ls'.get k) →
    measure r ls = measure r ls'

/-- R50 to R59: the as-is grade is the first grade whose four limits the sheet meets, and the disposition is
decided by the five steps in their order. -/
def Obligations.GradeDecisionBySteps : Prop :=
  ∀ (r : Settings) (m : Measurement),
    let met (g : Grade) : Prop := m.maxZ ≤ r.limitZone.get g ∧ m.total ≤ r.limitTotal.get g ∧
      m.openCount ≤ r.limitOpen.get g ∧ m.n ≠ 0 ∧ m.thickDev ≤ r.limitThick.get g
    let patchable : Prop := 1 ≤ m.openCount ∧ m.openCount ≤ r.patchMaxOpen ∧ m.split ≤ r.patchSplitMax ∧
      m.maxZ' ≤ r.limitZone.get r.patchTarget ∧ m.total' ≤ r.limitTotal.get r.patchTarget ∧
      m.thickDev ≤ r.limitThick.get r.patchTarget
    let wet : Prop := r.meanLimit < m.mean ∨ r.wetspotLimit < m.wetspot
    let inspect : Prop := r.missingLanePolicy = .whole ∨ r.maxMissing < m.f
    let asIs := asIsGrade r m
    let d := disposition r m
    (∀ g, asIs = some g ↔ met g ∧ ∀ h, h.code < g.code → ¬ met h) ∧
    (asIs = none ↔ ∀ g, ¬ met g) ∧
    (m.n = 0 → d = .bin .reinspect ∧ asIs = none) ∧
    (m.n ≠ 0 → wet → d = .bin .redry) ∧
    (m.n ≠ 0 → ¬ wet → m.f ≠ 0 → inspect → d = .bin .reinspect) ∧
    (m.n ≠ 0 → ¬ wet → m.f ≠ 0 → ¬ inspect →
      (asIs = none → d = .reject) ∧
      ∀ g, asIs = some g → d = .bin (.grade (if g.code < r.partialCap.code then r.partialCap else g))) ∧
    (m.n ≠ 0 → ¬ wet → m.f = 0 →
      (∀ g, asIs = some g → g.code ≤ r.patchTarget.code → d = .bin (.grade g)) ∧
      (∀ g, asIs = some g → r.patchTarget.code < g.code →
        (patchable → d = .bin .patch) ∧ (¬ patchable → d = .bin (.grade g))) ∧
      (asIs = none → (patchable → d = .bin .patch) ∧ (¬ patchable → d = .reject)))

/-! ## Windows and frames -/

/-- R147, R148, R77: at the fall of select the output is fixed: the status byte with its eight conditions, the
answer buffer's bytes, and 00h after them; nothing else changes, and the select timer stands at 20 ms. R146: SDO
shows bit 7 of the status byte from the fall of select, and the next bit from each falling clock edge (edges and the
clock's level are the model's inputs, log 2). -/
def Obligations.SelectFallFixesTheOutput : Prop :=
  ∀ (s : State) (p : Port), s.porstLow = false →
    (∀ b answer n, (s.port p).window = .opened b answer n →
      (s.port p).sdo = some ((outputAt b answer ((s.port p).sent / 8)).getLsbD (7 - (s.port p).sent % 8)) ∧
      ((s.port p).sck = true → s.takeInput (.clockFall p) =
        s.setPort p { s.port p with sck := false, sent := (s.port p).sent + 1 }) ∧
      ((s.port p).sck = false → s.takeInput (.clockFall p) = s)) ∧
    ∃ (b : Byte) (t : State), exec (.selectFall p) s = .next t ∧
      t = s.setPort p
        { s.port p with window := .opened b (s.port p).answer 20, shift := Shift.fresh, sent := 0 } ∧
      (t.port p).sdo = some (b.getLsbD 7) ∧
      (b.getLsbD 0 = (s.port p).answer.isSome) ∧
      (b.getLsbD 1 = true ↔ s.op ≠ .idle) ∧
      (b.getLsbD 2 = true ↔ s.ram.holdThreshold ≤ s.table.length ∨ ∃ g : Grade,
        (∃ i, (s.bins.get i).mode = .opened ∧ (s.bins.get i).cls = .grade g) ∧
        ∀ i, (s.bins.get i).mode = .opened → (s.bins.get i).cls = .grade g →
          (s.bins.get i).capacity ≤ (s.bins.get i).stack.length + (s.bins.get i).inbound) ∧
      (b.getLsbD 3 = true ↔ ∃ k, (s.faults.get k).pending = true) ∧
      (b.getLsbD 4 = true ↔ ∃ n, n < 16 ∧ (s.port p).flags.getLsbD n = true ∧ (s.port p).mask.getLsbD n = true) ∧
      (b.getLsbD 5 = (s.port p).frameErr) ∧
      (b.getLsbD 6 = (s.port p).flags.getLsbD 15) ∧
      (b.getLsbD 7 = true ↔ b.getLsbD 3 = false ∧ b.getLsbD 4 = false ∧ b.getLsbD 5 = false ∧ b.getLsbD 6 = false) ∧
      outputAt b (s.port p).answer 0 = b ∧
      (∀ n, 32 ≤ n → outputAt b (s.port p).answer n = 0) ∧
      ((s.port p).answer = none → ∀ n, 1 ≤ n → outputAt b none n = 0) ∧
      (∀ a, (s.port p).answer = some a → a.payload.length ≤ 29 →
        outputAt b (some a) 1 = a.tag ∧ (outputAt b (some a) 2).toNat = a.code.code ∧
        ∀ n, outputAt b (some a) (3 + n) = a.payload.getD n 0)

/-- R150: a rejected frame sets FRAME_ERR and records its kind, keeps the answer and changes nothing else; the
next window shows FRAME_ERR 1 and QUIET 0 and offers the kept answer; a second rejection replaces the
kind. -/
def Obligations.RejectedFrameKeepsTheAnswer : Prop :=
  ∀ (s : State) (p : Port) (kind second : RejectKind), s.porstLow = false →
    ∃ t, exec (.frameRejected p kind) s = .next t ∧
      t = s.setPort p { s.port p with window := .idle, frameErr := true, lastError := .rejected kind } ∧
      (t.port p).answer = (s.port p).answer ∧
      (∃ u b, exec (.selectFall p) t = .next u ∧ (u.port p).window = .opened b (s.port p).answer 20 ∧
        b.getLsbD 5 = true ∧ b.getLsbD 7 = false) ∧
      (∃ u, exec (.frameRejected p second) t = .next u ∧ (u.port p).lastError = .rejected second)

/-- R152: at the select timeout the frame is rejected with kind SELECT_TIMEOUT, SDO is released, clock edges
are ignored, and the rise of select takes no frame (edges are the model's inputs, log 2). -/
def Obligations.SelectTimeoutReleasesThePort : Prop :=
  ∀ (s : State) (p : Port), s.porstLow = false →
    ∃ t, exec (.selectTimeout p) s = .next t ∧
      t = s.setPort p { s.port p with window := .expired, frameErr := true, lastError := .selectTimeout } ∧
      (t.port p).sdo = none ∧
      (∀ bit, t.takeInput (.clockRise p bit) = t.setPort p { t.port p with sck := true }) ∧
      t.takeInput (.clockFall p) = t.setPort p { t.port p with sck := false } ∧
      t.takeInput (.selectRise p) = t.setPort p { t.port p with window := .idle }

/-- R153, cases 1 to 3: a frame with no command code is answered UNKNOWN_COMMAND whatever LRST_N, its tag
echoed, 00h for a frame of one byte; a command from a port that may not give it is answered NO_RIGHT; one
from a port that may, while LRST_N is low, is answered RETRY unless it is STATUS, FETCH or READ_EVENTS.
None of them has an effect. -/
def Obligations.FramesAreTestedInOrder : Prop :=
  (∀ (s : State) (p : Port) (code : Byte) (tag : Option Byte), s.porstLow = false →
    exec (.unknownCommand p code tag) s =
      .next (s.replied p (match tag with | some b => b | none => 0x00) .unknownCommand [])) ∧
  ∀ (s : State) (c : Instr) (p : Port) (tag : Byte), s.porstLow = false → stationFrame c = some (p, tag) →
    ((∃ q, ownPort c = some q ∧ q ≠ p) → exec c s = .next (s.replied p tag .noRight [])) ∧
    ((∀ q, ownPort c = some q → q = p) → s.lrstLow = true → actsInLineReset c = false →
      exec c s = .next (s.replied p tag .retry []))

/-- R151, R155, R146: every station frame taken ends its window, clears FRAME_ERR and consumes the previous
answer; its own answer echoes its tag; FETCH, and a PORT_RESET that acts, leave the buffer empty. Another
port keeps its window, answer, FRAME_ERR, last error kind and mask, unless the command is RESET_LINE. -/
def Obligations.StationFramesAreAnsweredOnTheirPort : Prop :=
  ∀ (s : State) (c : Instr) (p : Port) (tag : Byte), s.porstLow = false → stationFrame c = some (p, tag) →
    ∃ t, exec c s = .next t ∧ (t.port p).window = .idle ∧ (t.port p).frameErr = false ∧
      ((t.port p).answer = none ∨ ∃ a, (t.port p).answer = some a ∧ a.tag = tag) ∧
      ((t.port p).answer = none ↔ c = .fetch p tag ∨ (c = .portReset p tag ∧ s.lrstLow = false)) ∧
      (c ≠ .resetLine p tag → ∀ q, q ≠ p → t.port q = { s.port q with flags := (t.port q).flags })

/-- R153, Conventions: a command refused with a code other than OUT_OF_ORDER changes nothing but its answer;
one refused with OUT_OF_ORDER is an occurrence of that fault kind and nothing more. -/
def Obligations.RefusedCommandsChangeNothing : Prop :=
  ∀ (s t : State) (c : Instr) (p : Port) (tag : Byte) (a : Answer), s.porstLow = false →
    stationFrame c = some (p, tag) → exec c s = .next t → (t.port p).answer = some a →
    a.code ≠ .ok → a.code ≠ .clamped → a.code ≠ .late →
    (a.code ≠ .outOfOrder → t = s.replied p tag a.code a.payload) ∧
    (a.code = .outOfOrder → a.payload = [] ∧ t = (s.faultOccurs .outOfOrder).replied p tag .outOfOrder [])

/-! ## Commands of every port -/

/-- R156: FETCH, a frame of 32 bytes of which bytes 2 to 31 are ignored, consumes the previous answer, places
none, and changes nothing else, also while LRST_N is low and during a settings load or store. -/
def Obligations.FetchEmptiesTheAnswerBuffer : Prop :=
  (∀ (p : Port) (tag : Byte) (ignored : List Byte), ignored.length = 30 →
    decodeFrame p (Shift.ofBytes (0x01 :: tag :: ignored)) = some (.fetch p tag)) ∧
  ∀ (s : State) (p : Port) (tag : Byte), s.porstLow = false →
    ∃ t, exec (.fetch p tag) s = .next t ∧
      t = s.setPort p { s.port p with window := .idle, frameErr := false, answer := none } ∧
      (t.statusByte p).getLsbD 0 = false

/-- R157, Table 7-7: STATUS answers the part's state in 15 bytes and changes nothing, also while LRST_N is low
and during a settings load or store. -/
def Obligations.StatusReportsThePart : Prop :=
  ∀ (s : State) (p : Port) (tag : Byte), s.porstLow = false →
    ∃ f : List Byte, exec (.status p tag) s = .next (s.replied p tag .ok f) ∧ f.length = 15 ∧
      (byteAt f 0).toNat = s.intake.code ∧ (byteAt f 1).toNat = s.table.length % 256 ∧
      (byteAt f 2).toNat = s.ahead % 256 ∧ wordAt f 3 = s.sheetCounter ∧
      (wordAt f 5).toNat = s.missed % 65536 ∧ (wordAt f 7).toNat = s.bad % 65536 ∧
      (wordAt f 9).toNat = s.stray % 65536 ∧
      (∀ k : Fin 4, (byteAt f 11).getLsbD k.val = (s.health.get k).down) ∧
      (byteAt f 11).getLsbD 4 = false ∧ (byteAt f 11).getLsbD 5 = false ∧
      (byteAt f 11).getLsbD 6 = s.lrstLow ∧ (byteAt f 11).getLsbD 7 = s.settingsValid ∧
      (byteAt f 12).toNat = (s.port p).lastError.code ∧
      (byteAt f 13).toNat = (16 * s.queue.length + s.active.length) % 256 ∧
      (∀ b : Fin 8, (byteAt f 14).getLsbD b.val = (s.bins.get b).full)

/-- R96, R70, R75, Tables 4-7 and 7-11: READ_BIN answers the record of a bin, with its effective margin and its room and
full conditions, and the sheet record at a depth from the top, refuses a bin above 7 or a depth above 299, and
changes nothing. R164, Table 7-13: a sheet record travels in 15 bytes. -/
def Obligations.ReadBinReportsTheRecord : Prop :=
  (∀ r : SheetRecord,
    let f := r.bytes
    f.length = 15 ∧ wordAt f 0 = r.sheet ∧
    (byteAt f 2).toNat = 16 * (match r.asIs with | some g => g.code | none => 15) + r.disposition.code ∧
    (∀ k : Fin 4, (byteAt f 3).getLsbD (4 + k.val) = r.missing.get k) ∧
    (byteAt f 3).toNat % 16 = (match r.placedClass with | some k => k.code | none => 15) ∧
    (wordAt f 4).toNat = r.mean % 65536 ∧ (wordAt f 6).toNat = r.wetspot % 65536 ∧
    (wordAt f 8).toNat = r.worstZone % 65536 ∧ (wordAt f 10).toNat = r.total % 65536 ∧
    (byteAt f 12).toNat = r.openCount % 256 ∧
    (r.thickDev < 8192 → (wordAt f 13).toNat = r.thickDev + if r.degraded then 32768 else 0)) ∧
  ∀ (s : State) (p : Port) (tag : Byte) (bin : BitVec 7) (depth : BitVec 9), NoReset s →
    (8 ≤ bin.toNat ∨ 300 ≤ depth.toNat →
      exec (.readBin p tag bin depth) s = .next (s.replied p tag .badArgument [])) ∧
    ∀ b : Fin 8, bin.toNat = b.val → depth.toNat ≤ 299 →
      ∃ f : List Byte, exec (.readBin p tag bin depth) s = .next (s.replied p tag .ok f) ∧ f.length = 28 ∧
        (byteAt f 0).toNat % 8 = b.val ∧ (byteAt f 0).toNat / 8 % 4 = (s.bins.get b).mode.code ∧
        (let r := s.bins.get b
         let margin := min r.margin (r.capacity - 1)
         ((byteAt f 0).getLsbD 5 = true ↔ r.stack.length + r.inbound < r.capacity) ∧
         ((byteAt f 0).getLsbD 6 = true ↔ r.capacity - margin ≤ r.stack.length + r.inbound) ∧
         (byteAt f 4).toNat = margin % 256) ∧
        (s.bins.get b).count = (s.bins.get b).stack.length ∧
        ((byteAt f 0).getLsbD 5 = (s.bins.get b).room ∧ (byteAt f 0).getLsbD 6 = (s.bins.get b).full) ∧
        ((byteAt f 0).getLsbD 7 = true ↔ depth.toNat < (s.bins.get b).count) ∧
        (byteAt f 1).toNat = (s.bins.get b).cls.code ∧ (wordAt f 2).toNat = (s.bins.get b).capacity % 65536 ∧
        (wordAt f 5).toNat = (s.bins.get b).count % 65536 ∧
        (wordAt f 7).toNat = (s.bins.get b).inbound % 65536 ∧
        (wordAt f 9).toNat = (s.bins.get b).reserved % 65536 ∧ (wordAt f 11).toNat = depth.toNat ∧
        f.drop 13 = match (s.bins.get b).stack[depth.toNat]? with
          | some r => r.bytes
          | none => List.replicate 15 0

/-- R158, Table 7-12: READ_SHEET answers the oldest entry with the number: its summary, up to nine of a lane's
defects from a position, or half of a lane's sample slots; NO_ENTRY where none carries the number,
BAD_ARGUMENT for another part; it changes nothing. That the entry is looked for before the part is tested is
the model's reading, log 14. -/
def Obligations.ReadSheetReportsTheEntry : Prop :=
  ∀ (s : State) (p : Port) (tag : Byte) (sheet : Word) (part selector : Byte), NoReset s →
    ((∀ e ∈ s.table, e.sheet ≠ sheet) →
      exec (.readSheet p tag sheet part selector) s = .next (s.replied p tag .noEntry [])) ∧
    ∀ (older younger : List Entry) (e : Entry), s.table = older ++ e :: younger → e.sheet = sheet →
      (∀ x ∈ older, x.sheet ≠ sheet) →
      ∀ lane : Fin 4, lane.val = selector.toNat / 64 →
      (3 ≤ part.toNat → exec (.readSheet p tag sheet part selector) s = .next (s.replied p tag .badArgument [])) ∧
      (part = 0 → ∃ f, exec (.readSheet p tag sheet part selector) s = .next (s.replied p tag .ok f) ∧
        f.length = 29 ∧ wordAt f 0 = sheet ∧ byteAt f 2 = e.tag ∧ (byteAt f 3).toNat = e.state.code ∧
        (byteAt f 4).toNat = e.unscanned % 256 ∧
        (byteAt f 5).toNat = (match e.placement with | some b => b.val | none => 15) ∧
        (∀ k : Fin 4, (byteAt f (6 + k.val)).toNat =
          ((e.lanes.get k).state.code * 32 + (e.lanes.get k).defects.length) % 256) ∧
        (∀ (k : Fin 4) (z : Fin 8), (byteAt f (10 + k.val)).getLsbD z.val = ((e.lanes.get k).samples.get z).isSome) ∧
        f.drop 14 = match e.result with | some r => r.bytes | none => List.replicate 15 0) ∧
      (part = 1 → exec (.readSheet p tag sheet part selector) s = .next (s.replied p tag .ok
        (let ds := ((e.lanes.get lane).defects.drop (selector.toNat % 32)).take 9
         BitVec.ofNat 8 ds.length :: ds.flatMap fun d =>
          [BitVec.ofNat 8 (d.zone.val * 16 + d.type.code), BitVec.ofNat 8 (d.size / 256), BitVec.ofNat 8 d.size]))) ∧
      (part = 2 → ∃ f, exec (.readSheet p tag sheet part selector) s = .next (s.replied p tag .ok f) ∧
        f.length = 21 ∧
        ∀ (i : Fin 4) (z : Fin 8), z.val = i.val + (if selector.getLsbD 0 then 4 else 0) →
          (byteAt f 0).getLsbD i.val = ((e.lanes.get lane).samples.get z).isSome ∧
          match (e.lanes.get lane).samples.get z with
          | some x => (wordAt f (1 + 5 * i.val)).toNat = x.raw % 65536 ∧
              (wordAt f (3 + 5 * i.val)).toNat = x.thickness % 65536 ∧
              byteAt f (5 + 5 * i.val) = BitVec.ofInt 8 x.temp
          | none => wordAt f (1 + 5 * i.val) = 0 ∧ wordAt f (3 + 5 * i.val) = 0 ∧ byteAt f (5 + 5 * i.val) = 0)

/-- R170: a port's attention output is asserted exactly while PORST_N is high and a flag of the port is set whose enable
is on in its mask. R168, R169, R159: READ_EVENTS answers the port's flags and then clears those named, also while LRST_N is
low; SET_ATTN_MASK replaces the port's mask whole and clears no flag; PORT_RESET clears the port's answer,
FRAME_ERR, last error kind and flags and keeps its mask. -/
def Obligations.EventFlagsAreReadMaskedAndReset : Prop :=
  (∀ (s : State) (p : Port), s.attnAsserted p = true ↔ s.porstLow = false ∧
    ∃ n, n < 16 ∧ (s.port p).flags.getLsbD n = true ∧ (s.port p).mask.getLsbD n = true) ∧
  ∀ (s : State) (p : Port) (tag : Byte) (w : Word), s.porstLow = false →
    (exec (.readEvents p tag w) s = .next ((s.setPort p
      { s.port p with flags := (s.port p).flags &&& ~~~w }).replied p tag .ok (wordBytes (s.port p).flags))) ∧
    (s.lrstLow = false →
      exec (.setAttnMask p tag w) s = .next ((s.setPort p { s.port p with mask := w }).replied p tag .ok [])) ∧
    (s.lrstLow = false →
      exec (.portReset p tag) s = .next (s.setPort p { s.port p with
        window := .idle, answer := none, frameErr := false, lastError := .none, flags := 0 }))

/-! ## Commands of the L port -/

/-- R17, R18, R194, R195: START answers RETRY during a load or store, REFUSED while the settings are invalid,
and otherwise sets a STOPPED intake running with no held tags and leaves a RUNNING or SUSPENDED one; STOP
sets it STOPPED with no held tags. LOAD_SETTINGS and STORE_SETTINGS answer RETRY during a load or store; a
load is REFUSED unless the intake is quiet, STOPPED with no entry SCANNING, READY or GRADING; otherwise the operation
starts, and RAM is as it was. Where the transfer on the EEPROM bus then stands is R166's (log 23). -/
def Obligations.IntakeAndSettingsOperationsBegin : Prop :=
  (∀ s : State, s.quiet = true ↔ s.intake = .stopped ∧
    ∀ e ∈ s.table, (∀ left, e.state ≠ .scanning left) ∧ e.state ≠ .ready ∧ e.state ≠ .grading) ∧
  ∀ (s : State) (tag : Byte), NoReset s →
    (s.op ≠ .idle →
      exec (.start .line tag) s = .next (s.replied .line tag .retry []) ∧
      exec (.loadSettings .line tag) s = .next (s.replied .line tag .retry []) ∧
      exec (.storeSettings .line tag) s = .next (s.replied .line tag .retry [])) ∧
    (s.op = .idle →
      exec (.start .line tag) s = .next (if s.settingsValid = false then s.replied .line tag .refused []
        else if s.intake = .stopped then
          { s with intake := .running, suspended := none, resuming := none, retired := none }.replied
            .line tag .ok []
        else s.replied .line tag .ok []) ∧
      exec (.loadSettings .line tag) s = .next (if s.quiet then
        { s with op := .loading, bus := .reading 0 [] }.replied .line tag .ok []
        else s.replied .line tag .refused []) ∧
      exec (.storeSettings .line tag) s =
        .next ({ s with op := .storing, bus := .writing 0 0 }.replied .line tag .ok [])) ∧
    exec (.stop .line tag) s = .next ({ s with
      intake := .stopped, suspended := none, resuming := none, retired := none }.replied .line tag .ok [])

/-- R190, R70, R71, R179, R189: an accepted SET_SETTING installs the value, clamped for a number, in its one
setting; a changed line function or inversion reconfigures its line alone, and a bin setting enters its
OFFLINE bin's record; HOLD_CHANGED is set where the line-hold condition changed. R181, R184: a change of the debounced
level that was pending at the reconfigured line, its difference having lasted 8 ms, lapses (log 19). -/
def Obligations.SetSettingInstallsOneSetting : Prop :=
  ∀ (s : State) (tag : Byte) (x : Setting) (key : Word) (value : BitVec 32) (v : Nat) (clamped : Bool),
    NoReset s → SettingsInv s → BinInv s → s.op = .idle → key.toNat = x.key →
    (x.kind = .grading → s.quiet = true) → (∀ b, x.kind = .bin b → (s.bins.get b).mode = .offline) →
    (match x.domain with
     | .codes cs => value.toNat ∈ cs ∧ v = value.toNat ∧ clamped = false
     | .range low high => v = max low (min high value.toNat) ∧
        (clamped = true ↔ value.toNat < low ∨ high < value.toNat)) →
    ∃ t, exec (.setSetting .line tag key value) s = .next t ∧
      AnsweredOn s t .line tag (if clamped then .clamped else .ok) (wordBytes key ++ wordBytes (BitVec.ofNat 16 v)) ∧
      t.ram.get x = v ∧ (∀ y, y ≠ x → t.ram.get y = s.ram.get y) ∧
      (∀ b, (s.bins.get b).mode ≠ .offline → t.bins.get b = s.bins.get b) ∧
      (∀ b, (s.bins.get b).mode = .offline → t.bins.get b = { s.bins.get b with
        cls := t.ram.binClass.get b, capacity := t.ram.binCapacity.get b, margin := t.ram.binMargin.get b }) ∧
      (∀ k, t.ram.lineFunction.get k = s.ram.lineFunction.get k → t.ram.lineInvert.get k = s.ram.lineInvert.get k →
        t.lines.get k = s.lines.get k) ∧
      (∀ k, t.ram.lineFunction.get k ≠ s.ram.lineFunction.get k ∨ t.ram.lineInvert.get k ≠ s.ram.lineInvert.get k →
        t.lines.get k = { s.lines.get k with
          latch := false, differ := 0
          lapsed := match (s.lines.get k).debounced with
            | some d => if 8 ≤ (s.lines.get k).differ then some (!d) else (s.lines.get k).lapsed
            | none => (s.lines.get k).lapsed
          debounced := if (t.ram.lineFunction.get k).isInput then
            some ((s.lines.get k).pin != t.ram.lineInvert.get k) else none }) ∧
      FlagsRaised s t (holdFlag s t) ∧ SameSheets s t ∧ SameOrders s t ∧ SameFaults s t ∧
      t.settingsValid = s.settingsValid ∧ t.op = s.op ∧ t.bus = s.bus ∧ SamePins s t

/-- R190, R191: the refusals of SET_SETTING in their order, and GET_SETTING: RETRY during a load or store,
BAD_ARGUMENT for an unknown key, REFUSED for a closed gate, BAD_ARGUMENT for a value outside a code set;
GET_SETTING otherwise answers the key and the value held. Nothing else changes. -/
def Obligations.SettingsAreRefusedOrRead : Prop :=
  ∀ (s : State) (tag : Byte) (key : Word) (value : BitVec 32), NoReset s →
    (s.op ≠ .idle →
      exec (.setSetting .line tag key value) s = .next (s.replied .line tag .retry []) ∧
      exec (.getSetting .line tag key) s = .next (s.replied .line tag .retry [])) ∧
    (s.op = .idle → (∀ x : Setting, x.key ≠ key.toNat) →
      exec (.setSetting .line tag key value) s = .next (s.replied .line tag .badArgument []) ∧
      exec (.getSetting .line tag key) s = .next (s.replied .line tag .badArgument [])) ∧
    (s.op = .idle → ∀ x : Setting, x.key = key.toNat →
      exec (.getSetting .line tag key) s =
        .next (s.replied .line tag .ok (wordBytes key ++ wordBytes (BitVec.ofNat 16 (s.ram.get x)))) ∧
      ((x.kind = .grading ∧ s.quiet = false) ∨ (∃ b, x.kind = .bin b ∧ (s.bins.get b).mode ≠ .offline) →
        exec (.setSetting .line tag key value) s = .next (s.replied .line tag .refused [])) ∧
      (¬ ((x.kind = .grading ∧ s.quiet = false) ∨ (∃ b, x.kind = .bin b ∧ (s.bins.get b).mode ≠ .offline)) →
        ∀ cs, x.domain = .codes cs → value.toNat ∉ cs →
        exec (.setSetting .line tag key value) s = .next (s.replied .line tag .badArgument [])))

/-- R73, R70, R76: a BIN_STATE that is carried out changes the state of its one bin, which follows its settings
when it goes OFFLINE and keeps its record otherwise; BIN_CHANGED is set on the L and S ports,
HOLD_CHANGED where the line-hold condition changed. The other requests change nothing: BAD_ARGUMENT,
RETRY for OPEN during a load or store, REFUSED by the table, and OK for OFFLINE of an OFFLINE bin. That the
arguments are tested before the load or store is the model's reading, log 14. -/
def Obligations.BinStateFollowsItsTable : Prop :=
  ∀ (s : State) (tag : Byte) (bin requested : Byte), NoReset s →
    (8 ≤ bin.toNat ∨ 3 ≤ requested.toNat →
      exec (.binState .line tag bin requested) s = .next (s.replied .line tag .badArgument [])) ∧
    ∀ (b : Fin 8) (m : BinMode), bin.toNat = b.val → requested.toNat = m.code →
      (m = .opened → s.op ≠ .idle →
        exec (.binState .line tag bin requested) s = .next (s.replied .line tag .retry [])) ∧
      ((m = .opened ∧ s.op = .idle ∧ (s.bins.get b).mode = .opened) ∨
       (m = .closed ∧ (s.bins.get b).mode ≠ .opened) ∨
       (m = .offline ∧ (s.bins.get b).mode ≠ .offline ∧
        ((s.bins.get b).count ≠ 0 ∨ (s.bins.get b).inbound ≠ 0 ∨ (s.bins.get b).reserved ≠ 0)) →
        exec (.binState .line tag bin requested) s = .next (s.replied .line tag .refused [])) ∧
      (m = .offline → (s.bins.get b).mode = .offline →
        exec (.binState .line tag bin requested) s = .next (s.replied .line tag .ok [])) ∧
      ((m = .opened ∧ (s.bins.get b).mode ≠ .opened ∧ s.op = .idle) ∨
       (m = .closed ∧ (s.bins.get b).mode = .opened) ∨
       (m = .offline ∧ (s.bins.get b).mode ≠ .offline ∧ (s.bins.get b).count = 0 ∧
        (s.bins.get b).inbound = 0 ∧ (s.bins.get b).reserved = 0) →
        ∃ t, exec (.binState .line tag bin requested) s = .next t ∧ AnsweredOn s t .line tag .ok [] ∧
          (m ≠ .offline → t.bins.get b = { s.bins.get b with mode := m }) ∧
          (m = .offline → t.bins.get b = { s.bins.get b with
            mode := .offline, cls := s.ram.binClass.get b, capacity := s.ram.binCapacity.get b
            margin := s.ram.binMargin.get b }) ∧
          (∀ c, c ≠ b → t.bins.get c = s.bins.get c) ∧
          FlagsRaised s t ([(.line, 7), (.stacker, 7)] ++ holdFlag s t) ∧
          SameSheets s t ∧ SameOrders s t ∧ SameFaults s t ∧ t.lines = s.lines ∧ SameSettings s t ∧ SamePins s t)

/-- R24, R171, R172: LANE_UP clears the lane's DOWN flag and count, whether or not it was DOWN; with no lane DOWN
the LANE_DOWN kind is not pending, its count stays, and the first-fault record goes when no kind is
pending; a lane above 3 is refused. -/
def Obligations.LaneUpReturnsTheLane : Prop :=
  ∀ (s : State) (tag lane : Byte), NoReset s → FaultInv s →
    (4 ≤ lane.toNat → exec (.laneUp .line tag lane) s = .next (s.replied .line tag .badArgument [])) ∧
    ∀ k : Fin 4, lane.toNat = k.val →
      ∃ t, exec (.laneUp .line tag lane) s = .next t ∧ t.ports = (s.replied .line tag .ok []).ports ∧
        t.health = s.health.set k { count := 0, down := false } ∧
        (t.faults.get .laneDown).pending = t.anyDown ∧
        (∀ j, (t.faults.get j).count = (s.faults.get j).count) ∧
        (∀ j, j ≠ .laneDown → t.faults.get j = s.faults.get j) ∧
        t.firstFault = (if anyPending t.faults then s.firstFault else none) ∧
        SameReceiver s t ∧ SameIntake s t ∧ SameTable s t ∧ t.bins = s.bins ∧ SameOrders s t ∧
        t.lines = s.lines ∧ SameSettings s t ∧ SamePins s t

/-- R174, Table 8-4: READ_FAULTS answers the fault state before any clearing; it clears the latched kinds named,
sets to 0 the counts of the named kinds that are not pending then, and clears the first-fault record
when no kind is pending. -/
def Obligations.ReadFaultsAnswersAndClears : Prop :=
  ∀ (s : State) (tag : Byte) (clear : Word), NoReset s →
    ∃ (t : State) (f : List Byte), exec (.readFaults .line tag clear) s = .next t ∧
      t = { s with faults := t.faults, firstFault := t.firstFault }.replied .line tag .ok f ∧
      (∀ k : FaultKind, t.faults.get k =
        if clear.getLsbD k.code = false then s.faults.get k
        else if k = .storeFailed ∨ k = .syncLost ∨ k = .outOfOrder ∨ (s.faults.get k).pending = false then
          { pending := false, count := 0 }
        else s.faults.get k) ∧
      t.firstFault = (if anyPending t.faults then s.firstFault else none) ∧
      f.length = 10 ∧
      (∀ k : FaultKind, (byteAt f 0).getLsbD k.code = (s.faults.get k).pending ∧
        (byteAt f (1 + k.code)).toNat = (s.faults.get k).count % 256) ∧
      match s.firstFault with
      | some r => (byteAt f 6).toNat = r.kind.code ∧ wordAt f 7 = r.sheet ∧ (byteAt f 9).toNat = r.later % 256
      | none => byteAt f 6 = 0xFF ∧ wordAt f 7 = 0 ∧ byteAt f 9 = 0

/-- R183, Table 9-2: READ_LINES answers the debounced levels, the latched edges and the output levels, and then
clears the latches named. -/
def Obligations.ReadLinesAnswersAndClears : Prop :=
  ∀ (s : State) (tag clear : Byte), NoReset s →
    ∃ (t : State) (f : List Byte), exec (.readLines .line tag clear) s = .next t ∧
      t = { s with lines := t.lines }.replied .line tag .ok f ∧ f.length = 3 ∧
      ∀ k : Fin 8,
        t.lines.get k = { s.lines.get k with latch := (s.lines.get k).latch && !clear.getLsbD k.val } ∧
        ((byteAt f 0).getLsbD k.val = true ↔ (s.lines.get k).debounced = some true) ∧
        (byteAt f 1).getLsbD k.val = (s.lines.get k).latch ∧
        ((byteAt f 2).getLsbD k.val = true ↔ s.outputLevel k = some true)

/-! ## Commands of the S port -/

/-- R82, R83: the placement walk looks in the class of the disposition and then, for a grade, in the worse
grades that its degrade settings lead to; in the first class with an OPEN bin that has room it chooses the
fullest such bin, the lowest-numbered of several; with none it chooses no bin. -/
def Obligations.PlacementWalkChoosesTheFullestOpenBin : Prop :=
  ∀ (r : Settings) (bins : Oct Bin) (k : BinClass),
    let passes (g : Grade) : Bool := match g with
      | .a => r.degradeA | .b => r.degradeB | .c => r.degradeC | .d => false
    let looked (h : BinClass) : Prop := h = k ∨ ∃ g g', k = .grade g ∧ h = .grade g' ∧ g.code < g'.code ∧
      ∀ x : Grade, g.code ≤ x.code → x.code < g'.code → passes x = true
    let load (i : Fin 8) : Nat := (bins.get i).count + (bins.get i).inbound
    let fits (h : BinClass) (i : Fin 8) : Prop :=
      (bins.get i).mode = .opened ∧ (bins.get i).cls = h ∧ load i < (bins.get i).capacity
    (∀ b, walk r bins k = some b ↔ ∃ h, looked h ∧ fits h b ∧
      (∀ h', looked h' → h'.code < h.code → ∀ i, ¬ fits h' i) ∧
      ∀ i, fits h i → load i < load b ∨ (load i = load b ∧ b.val ≤ i.val)) ∧
    (walk r bins k = none ↔ ∀ h i, looked h → ¬ fits h i)

/-- R78, R80, R84, R20: WHERE places the oldest unplaced sheet, GRADED, to the bin the walk chose: PLACED with the
bin's class in its record, degraded where that is not its disposition; its unscanned count becomes the
pending count, and the bin's inbound rises by one. -/
def Obligations.WherePlacesTheOldestGradedSheet : Prop :=
  ∀ (s : State) (tag : Byte) (older younger : List Entry) (e : Entry) (r : SheetRecord) (k : BinClass) (b : Fin 8),
    NoReset s → TableInv s → s.ahead = 0 → s.table = older ++ e :: younger → (∀ x ∈ older, x.isPlaced = true) →
    e.state = .graded r → r.disposition = .bin k → walk s.ram s.bins k = some b →
    let cls := (s.bins.get b).cls
    let placed : Entry := { e with
      state := .placed { r with placedClass := some cls, degraded := decide (cls ≠ k) } b
      unscanned := 0 }
    let u : State := { s with
      table := older ++ placed :: younger
      ahead := e.unscanned
      bins := s.bins.set b { s.bins.get b with inbound := (s.bins.get b).inbound + 1 } }
    exec (.whereTo .stacker tag) s = .next ((s.announce u).replied .stacker tag .ok
      ([0x00, BitVec.ofNat 8 b.val] ++ wordBytes e.sheet ++ [BitVec.ofNat 8 k.code, BitVec.ofNat 8 cls.code]))

/-- R78, R79, R81: WHERE answers UNSCANNED and counts the pending count down; NONE with no unplaced entry; WAIT
while the oldest unplaced one is not GRADED; and the gate for a REJECT, or for a sheet whose walk finds no
bin, whose entry leaves the table, its unscanned count becoming the pending count. -/
def Obligations.WhereAnswersWithoutPlacing : Prop :=
  ∀ (s : State) (tag : Byte), NoReset s → TableInv s → IntakeInv s →
    (s.ahead ≠ 0 → exec (.whereTo .stacker tag) s =
      .next ({ s with ahead := s.ahead - 1 }.replied .stacker tag .ok [0x02])) ∧
    (s.ahead = 0 → (∀ x ∈ s.table, x.isPlaced = true) →
      exec (.whereTo .stacker tag) s = .next (s.replied .stacker tag .ok [0x04])) ∧
    (s.ahead = 0 → ∀ (older younger : List Entry) (e : Entry), s.table = older ++ e :: younger →
      (∀ x ∈ older, x.isPlaced = true) →
      ((e.isScanning = true ∨ e.state = .ready ∨ e.state = .grading) →
        exec (.whereTo .stacker tag) s = .next (s.replied .stacker tag .ok [0x03])) ∧
      ∀ r, e.state = .graded r → ∀ noRoom : Bool,
        ((r.disposition = .reject ∧ noRoom = false) ∨
         (∃ k, r.disposition = .bin k ∧ walk s.ram s.bins k = none ∧ noRoom = true)) →
        exec (.whereTo .stacker tag) s =
          .next ((s.announce { s with table := older ++ younger, ahead := e.unscanned }).replied .stacker tag .ok
            ([0x01] ++ wordBytes e.sheet ++ [if noRoom then 0x01 else 0x00])))

/-- R85, R86, R107: DROPPED with the number of the oldest PLACED entry pushes its record on its bin's stack, takes
it from inbound, removes the entry, answers the bin and its new count, and is a growth; with any other
number it is refused with OUT_OF_ORDER, an occurrence of that fault. -/
def Obligations.DroppedPushesTheRecord : Prop :=
  ∀ (s : State) (tag : Byte) (sheet : Word), NoReset s → TableInv s → IntakeInv s →
    (∀ (e : Entry) (younger : List Entry) (r : SheetRecord) (b : Fin 8), s.table = e :: younger →
      e.state = .placed r b → e.sheet = sheet →
      let u : State := { s with
        table := younger
        bins := s.bins.set b { s.bins.get b with
          stack := r :: (s.bins.get b).stack, inbound := (s.bins.get b).inbound - 1 } }
      exec (.dropped .stacker tag sheet) s = .next ((s.announce u.growth).replied .stacker tag .ok
        (BitVec.ofNat 8 b.val :: wordBytes (BitVec.ofNat 16 ((s.bins.get b).count + 1))))) ∧
    ((∀ e, s.table.head? = some e → e.isPlaced = true → e.sheet ≠ sheet) →
      exec (.dropped .stacker tag sheet) s = .next ((s.faultOccurs .outOfOrder).replied .stacker tag .outOfOrder []))

/-- R87 to R89, R20, R28: DIVERT with the number of the oldest PLACED entry removes it and takes it from its bin's
inbound; with that of the oldest unplaced one, no unscanned sheet being ahead of it, it removes that one:
its unscanned count becomes the pending count, one removed in SCANNING leaves its tag retired, and an engine
that held it takes the oldest READY entry. With any other number it is refused with OUT_OF_ORDER. -/
def Obligations.DivertRemovesTheSheet : Prop :=
  ∀ (s : State) (tag : Byte) (sheet : Word), NoReset s → TableInv s → IntakeInv s →
    (∀ (e : Entry) (younger : List Entry) (r : SheetRecord) (b : Fin 8), s.table = e :: younger →
      e.state = .placed r b → e.sheet = sheet →
      exec (.divert .stacker tag sheet) s = .next ((s.announce { s with
        table := younger
        bins := s.bins.set b { s.bins.get b with inbound := (s.bins.get b).inbound - 1 } }).replied
          .stacker tag .ok [0x00, BitVec.ofNat 8 b.val])) ∧
    (∀ (older younger left : List Entry) (e : Entry), s.table = older ++ e :: younger →
      (∀ x ∈ older, x.isPlaced = true) → e.isPlaced = false → e.sheet = sheet → s.ahead = 0 →
      (∀ x, older.head? = some x → x.sheet ≠ sheet) →
      (((e.state ≠ .grading ∨ ∀ x ∈ younger, x.state ≠ .ready) ∧ left = older ++ younger) ∨
       (e.state = .grading ∧ ∃ before x after, younger = before ++ x :: after ∧ x.state = .ready ∧
          (∀ y ∈ before, y.state ≠ .ready) ∧ left = older ++ before ++ { x with state := .grading } :: after)) →
      exec (.divert .stacker tag sheet) s = .next ((s.announce { s with
        table := left
        ahead := e.unscanned
        suspended := if s.resuming = some e.tag then none else s.suspended
        resuming := if s.resuming = some e.tag then none else s.resuming
        retired := if e.isScanning then some { tag := e.tag, heir := none } else s.retired }).replied
          .stacker tag .ok [0x01, BitVec.ofNat 8 e.state.code])) ∧
    ((∀ x, s.table.head? = some x → x.isPlaced = true → x.sheet ≠ sheet) →
     (∀ x, s.table.find? (fun x => !x.isPlaced) = some x → x.sheet ≠ sheet ∨ s.ahead ≠ 0) →
      exec (.divert .stacker tag sheet) s = .next ((s.faultOccurs .outOfOrder).replied .stacker tag .outOfOrder []))

/-- R94, R95, R136 to R139, R182: EMPTIED of an OPEN or CLOSED bin, and an edge of a line with that bin's
IN_BIN_EMPTIED, discard its stack and its reservations and settle the active orders, oldest first: each ply held on the
bin is planned afresh by the ply choice or left unplanned, calls on it are withdrawn, CLOSING orders called on
it finish; and the head of the queue is tried for a slot that this freed (R106). EMPTIED of an OFFLINE bin is REFUSED
and of no bin BAD_ARGUMENT. The pin level that an edge leaves is the model's, log 19. -/
def Obligations.EmptyingABinSettlesTheOrders : Prop :=
  ∀ (s : State), OrderInv s →
    let tried (v : State) : State := if v.active.length < s.active.length then v.admissions else v
    (∀ (tag bin : Byte), NoReset s →
      (8 ≤ bin.toNat → exec (.emptied .stacker tag bin) s = .next (s.replied .stacker tag .badArgument [])) ∧
      ∀ b : Fin 8, bin.toNat = b.val →
        ((s.bins.get b).mode = .offline →
          exec (.emptied .stacker tag bin) s = .next (s.replied .stacker tag .refused [])) ∧
        ((s.bins.get b).mode ≠ .offline → ∃ v, Settled s v b ∧
          exec (.emptied .stacker tag bin) s = .next ((s.announce (tried v)).replied .stacker tag .ok
            (wordBytes (BitVec.ofNat 16 (s.bins.get b).stack.length))))) ∧
    (∀ (k b : Fin 8), s.porstLow = false → (s.lines.get k).lapsed ≠ some true →
      (s.lines.get k).debounced = some false → s.ram.lineFunction.get k = .inBinEmptied b →
      (s.bins.get b).mode ≠ .offline →
      let edge : Line := { s.lines.get k with
        pin := !s.ram.lineInvert.get k, debounced := some true, differ := 0, latch := true }
      ∃ v, Settled { s with lines := s.lines.set k edge } v b ∧
        exec (.lineEdge k) s = .next (s.announce (tried v)))

/-- R181, R182, R95: the edge of an input line sets its debounced level and its latch, and nothing else where it
empties no bin, as on an OFFLINE one; a change to inactive sets the level alone; a level held already, or a line
without one, makes no change (log 4). R184: the change that was pending when the line was reconfigured, and only that one, does not occur (log 19).
R173: FAULT_N is asserted while a pending kind is enabled. R180, R186: the part drives each output line with its
condition, inverted where LINE_INVERT is on, and no other line. The pin level that a change leaves is the model's,
log 19. -/
def Obligations.LineEdgesAreLatchedAndOutputsDriven : Prop :=
  ∀ (s : State) (k : Fin 8), s.porstLow = false →
    let set (l : Line) : State := { s with lines := s.lines.set k l }
    let faultEnabled : Prop :=
      ∃ j : FaultKind, (s.faults.get j).pending = true ∧ s.ram.faultMask / 2 ^ j.code % 2 = 1
    ((s.lines.get k).lapsed = some true →
      exec (.lineEdge k) s = .next (set { s.lines.get k with lapsed := none })) ∧
    ((s.lines.get k).lapsed = some false →
      exec (.debouncedLevelInactive k) s = .next (set { s.lines.get k with lapsed := none })) ∧
    ((s.lines.get k).lapsed ≠ some true →
      ((s.lines.get k).debounced = some false →
        (∀ b, s.ram.lineFunction.get k = .inBinEmptied b → (s.bins.get b).mode = .offline) →
        exec (.lineEdge k) s = .next (set { s.lines.get k with
          pin := !s.ram.lineInvert.get k, debounced := some true, differ := 0, latch := true })) ∧
      ((s.lines.get k).debounced ≠ some false → exec (.lineEdge k) s = .next s)) ∧
    ((s.lines.get k).lapsed ≠ some false →
      ((s.lines.get k).debounced = some true → exec (.debouncedLevelInactive k) s = .next (set { s.lines.get k with
        pin := s.ram.lineInvert.get k, debounced := some false, differ := 0 })) ∧
      ((s.lines.get k).debounced ≠ some true → exec (.debouncedLevelInactive k) s = .next s)) ∧
    (s.faultN = true ↔ faultEnabled) ∧
    ∃ level : Bool, s.lineDrive k = (match s.ram.lineFunction.get k with
        | .off | .inGeneral | .inBinEmptied _ => none
        | .outLineHold | .outFault | .outOrderReady | .outBinFull _ => some level) ∧
      (let condition : Bool := level != s.ram.lineInvert.get k
       match s.ram.lineFunction.get k with
       | .outLineHold => condition = s.lineHold
       | .outFault => condition = true ↔ faultEnabled
       | .outOrderReady => condition = true ↔ ∃ a ∈ s.active, a.state = .planned
       | .outBinFull b => condition = (s.bins.get b).full
       | .off | .inGeneral | .inBinEmptied _ => True)

/-! ## Commands of the P port -/

/-- R103, R104, R107: the ply choice looks in the ply's grade and, with substitution, in the better grades, the
nearest first; in the first grade with a bin that is not OFFLINE and has availability it chooses the bin with
the most, the lowest-numbered of several. Plies are planned in their order, each lowering the running
availability of the bin it found, and a plan is whole or none. R75, R104: that availability starts at count less reserved, and at 0 for an
OFFLINE bin. -/
def Obligations.PlyChoiceIsTheLargestSourceInOrder : Prop :=
  (∀ (bins : Oct Bin) (i : Fin 8), (availableNow bins).get i =
    if (bins.get i).mode = .offline then 0 else (bins.get i).stack.length - (bins.get i).reserved) ∧
  ∀ (bins : Oct Bin) (avail : Oct Nat),
    (∀ p : Ply,
      let looked (g : Grade) : Prop := g = p.grade ∨ (p.substitute = true ∧ g.code < p.grade.code)
      let fits (g : Grade) (i : Fin 8) : Prop :=
        (bins.get i).mode ≠ .offline ∧ (bins.get i).cls = .grade g ∧ 0 < avail.get i
      (∀ b, plyChoice bins avail p = some b ↔ ∃ g, looked g ∧ fits g b ∧
        (∀ g', looked g' → g.code < g'.code → ∀ i, ¬ fits g' i) ∧
        ∀ i, fits g i → avail.get i < avail.get b ∨ (avail.get i = avail.get b ∧ b.val ≤ i.val)) ∧
      (plyChoice bins avail p = none ↔ ∀ g i, looked g → ¬ fits g i)) ∧
    ∀ (plies : List Ply) (bs : List (Fin 8)), planPlies bins avail plies = some bs ↔
      bs.length = plies.length ∧ ∀ n p, plies[n]? = some p →
        plyChoice bins (Oct.of fun i => avail.get i - (bs.take n).count i) p = bs[n]?

/-- R105 to R107, R110, R141: an admission takes the head of the queue with a complete plan into the
lower-numbered free slot, reserves its sheets, and sets ADMITTED; the new head is then tried, twice at most.
A growth tries the STALLED orders first; one whose unplanned plies all find a bin is planned whole and RESUMED is set,
and one that does not is left. Of two, the older is tried first, and the younger against what remains. -/
def Obligations.GrowthTriesStalledOrdersThenTheHead : Prop :=
  ∀ (s : State), OrderInv s →
    (NoAdmission s → s.admitHead = none) ∧
    (∀ (o : Order) (rest : List Order) (k : Fin 2) (bs : List (Fin 8)), s.queue = o :: rest →
      (∀ a ∈ s.active, a.slot ≠ k) → (k = 0 ∨ ∃ a ∈ s.active, a.slot = 0) →
      planPlies s.bins (availableNow s.bins) o.plies = some bs →
      let planned (p : Ply) (b : Fin 8) : ActivePly := { ply := p, bin := some b, taken := false }
      let admitted : Active := {
        slot := k, number := o.number, cls := o.cls, plies := List.zipWith planned o.plies bs
        state := .planned, called := none, withdrawn := none, hold := some (s.ram.orderHoldTime * 1000)
        seq := s.admissionSeq }
      s.admitHead = some ({ s with
        queue := rest
        active := s.active ++ [admitted]
        bins := Oct.of fun i => { s.bins.get i with reserved := (s.bins.get i).reserved + bs.count i }
        admissionSeq := s.admissionSeq + 1 }.setPort .press
          { s.port .press with flags := (s.port .press).flags ||| 0x0001 })) ∧
    (s.admissions = match s.admitHead with
      | none => s
      | some t => match t.admitHead with | none => t | some u => u) ∧
    (NoneStalled s → s.growth = s.admissions) ∧
    let retried (w : State) (before : List Active) (a : Active) (after : List Active) (u : State) : Prop :=
      let open_ := (a.plies.filter ActivePly.unplanned).map ActivePly.ply
      (planPlies w.bins (availableNow w.bins) open_ = none → u = w) ∧
      ∀ bs, planPlies w.bins (availableNow w.bins) open_ = some bs → ∃ plies : List ActivePly,
        plies.map ActivePly.ply = a.plies.map ActivePly.ply ∧ plies.map ActivePly.taken = a.plies.map ActivePly.taken ∧
        (∀ n p q, a.plies[n]? = some p → plies[n]? = some q → (p.unplanned = false → q = p) ∧
          (p.unplanned = true → q.bin = bs[((a.plies.take n).filter ActivePly.unplanned).length]?)) ∧
        u = { w with
          active := before ++ { a with
            plies := plies
            state := if a.called.isSome ∨ ∃ p ∈ plies, p.taken = true then .drawing else .planned } :: after
          bins := Oct.of fun i => { w.bins.get i with reserved := (w.bins.get i).reserved + bs.count i } }.setPort
            .press { w.port .press with flags := (w.port .press).flags ||| 0x0004 }
    (∀ (before after : List Active) (a : Active), s.active = before ++ a :: after → a.state = .stalled →
      (∀ x ∈ before ++ after, x.state ≠ .stalled) →
      ∃ u, retried s before a after u ∧ s.growth = u.admissions) ∧
    ∀ older younger : Active, s.active = [older, younger] → older.state = .stalled → younger.state = .stalled →
      ∃ (u v : State) (x : Active), retried s [] older [younger] u ∧ u.active = [x, younger] ∧
        retried u [x] younger [] v ∧ s.growth = v.admissions

/-- R99 to R101, R106: a valid ORDER joins the queue, a REMAKE order behind the last REMAKE one and a NORMAL order at
the tail, the head is tried, and the answer says where the order stands then: in its slot, or waiting at its position,
and it does stand in one of the two. Where no order can be admitted it waits at the position it joined at, and one that
finds the queue empty, a slot free and a complete plan is admitted. -/
def Obligations.OrderJoinsTheQueueOrIsAdmitted : Prop :=
  ∀ (s : State) (tag : Byte) (number : Word) (cls count : Byte) (plies : List Byte) (o : Order),
    NoReset s → OrderInv s → o.number = number → recipeSize o.plies.length → count.toNat = o.plies.length →
    cls.toNat = o.cls.code →
    plies = o.plies.map (fun p => BitVec.ofNat 8 (p.grade.code + if p.substitute then 16 else 0)) →
    (∀ x ∈ s.queue, x.number ≠ number) → (∀ x ∈ s.active, x.number ≠ number) → s.queue.length < 8 →
    let remakes := s.queue.filter fun x => x.cls = .remake
    let joined : State := { s with queue := match o.cls with
      | .remake => remakes ++ o :: s.queue.drop remakes.length
      | .normal => s.queue ++ [o] }
    let position : Nat := match o.cls with | .remake => remakes.length + 1 | .normal => s.queue.length + 1
    let c := exec (.order .press tag number cls count plies) s
    (let t := joined.admissions
     (∀ a ∈ t.active, a.number = number →
       c = .next (t.replied .press tag .ok (wordBytes number ++ [0x01, BitVec.ofNat 8 a.slot.val]))) ∧
     (∀ (ahead behind : List Order), t.queue = ahead ++ o :: behind →
       c = .next (t.replied .press tag .ok (wordBytes number ++ [0x00, BitVec.ofNat 8 (ahead.length + 1)]))) ∧
     ((∃ a ∈ t.active, a.number = number) ∨ ∃ ahead behind, t.queue = ahead ++ o :: behind)) ∧
    (NoAdmission joined →
      c = .next (joined.replied .press tag .ok (wordBytes number ++ [0x00, BitVec.ofNat 8 position]))) ∧
    (s.queue = [] → ∀ (k : Fin 2) (bs : List (Fin 8)), (∀ a ∈ s.active, a.slot ≠ k) →
      (k = 0 ∨ ∃ a ∈ s.active, a.slot = 0) → planPlies s.bins (availableNow s.bins) o.plies = some bs →
      ∃ t, joined.admitHead = some t ∧
        c = .next (t.replied .press tag .ok (wordBytes number ++ [0x01, BitVec.ofNat 8 k.val])))

/-- R102, R128 to R132, R135: CANCEL of a waiting order takes it from the queue, and the head is tried where it was
the head. A hold timer that expires, or CANCEL, aborts an active order: with no ply called it finishes; with
one called it enters CLOSING, keeping that ply's reservation alone, its timer stopped. What was reserved
besides is released, a growth. R128, R142: a timer that has not run out does not expire, a restarted one or that of an
order admitted since among them. That the plies taken before keep the bin they were planned on is the model's choice,
log 22. -/
def Obligations.AbortFinishesOrClosesAnOrder : Prop :=
  ∀ (s : State), s.porstLow = false → OrderInv s →
    (∀ (tag : Byte) (before after : List Order) (o : Order), s.lrstLow = false →
      s.queue = before ++ o :: after →
      let u := { s with queue := before ++ after }.finishOrder s.active o.number (.aborted .cancelled)
      exec (.cancel .press tag o.number) s =
        .next ((if before = [] then u.admissions else u).replied .press tag .ok [0x00, 0x05])) ∧
    (∀ k : Fin 2, (∀ a ∈ s.active, a.slot = k → a.hold ≠ some 0) → exec (.holdTimerExpiry k) s = .next s) ∧
    ∀ (before after : List Active) (a : Active) (cause : AbortCause), s.active = before ++ a :: after →
      (∀ c, a.state ≠ .closing c) →
      let released := a.heldBins a.called
      let freed : State := { s with
        bins := Oct.of fun i => { s.bins.get i with reserved := (s.bins.get i).reserved - released.count i } }
      let u : State := match a.called with
        | none => freed.finishOrder (before ++ after) a.number (.aborted cause)
        | some n => { freed with active := before ++ { a with
            plies := a.plies.mapIdx fun i p => if p.taken ∨ i + 1 = n then p else { p with bin := none }
            state := .closing cause, withdrawn := none, hold := none } :: after }
      let v : State := if released = [] then u.admissions else u.growth
      (cause = .timedOut → a.hold = some 0 → exec (.holdTimerExpiry a.slot) s = .next v) ∧
      (cause = .cancelled → s.lrstLow = false → ∀ tag, exec (.cancel .press tag a.number) s =
        .next (v.replied .press tag .ok [BitVec.ofNat 8 a.state.code, if a.called = none then 0x05 else 0x04]))

/-- R120 to R123, R127, R134: NEXT_PLY calls the next ply, the first not taken, once it is planned: it answers the ply,
its bin, its grade and the bin's class, repeats that answer while the ply is called, and answers WAIT while
the ply is unplanned. UNCALL clears the call; of a CLOSING order it also releases the ply's reservation and
finishes the order, a growth. -/
def Obligations.NextPlyCallsAndUncallClears : Prop :=
  ∀ (s : State) (tag : Byte) (before after : List Active) (a : Active) (done left : List ActivePly) (p : ActivePly),
    NoReset s → OrderInv s → s.active = before ++ a :: after → a.plies = done ++ p :: left →
    (∀ q ∈ done, q.taken = true) → p.taken = false →
    let n : Nat := done.length + 1
    let answer (b : Fin 8) : List Byte := [BitVec.ofNat 8 n, BitVec.ofNat 8 b.val,
      BitVec.ofNat 8 p.ply.grade.code, BitVec.ofNat 8 (s.bins.get b).cls.code]
    let lacking : Prop := ∃ q ∈ a.plies, q.taken = false ∧ q.bin = none
    ((∀ c, a.state ≠ .closing c) →
      (p.bin = none →
        exec (.nextPly .press tag a.number) s = .next (s.replied .press tag .wait [BitVec.ofNat 8 n])) ∧
      (∀ b, p.bin = some b → a.called ≠ none →
        exec (.nextPly .press tag a.number) s = .next (s.replied .press tag .ok (answer b))) ∧
      (∀ b, p.bin = some b → a.called = none → ∀ x : ActiveState, (lacking → x = .stalled) → (¬ lacking → x = .drawing) →
        exec (.nextPly .press tag a.number) s = .next ({ s with
          active := before ++ { a with called := some n, withdrawn := none, state := x } :: after }.replied
            .press tag .ok (answer b))) ∧
      (a.called ≠ none → ∀ x : ActiveState, (lacking → x = .stalled) → (¬ lacking → done ≠ [] → x = .drawing) →
        (¬ lacking → done = [] → x = .planned) →
        exec (.uncall .press tag a.number) s = .next ({ s with
          active := before ++ { a with called := none, state := x } :: after }.replied
            .press tag .ok [BitVec.ofNat 8 n, 0xFF]))) ∧
    ∀ (c : AbortCause) (b : Fin 8), a.state = .closing c → p.bin = some b →
      exec (.uncall .press tag a.number) s = .next ((({ s with
        bins := s.bins.set b { s.bins.get b with reserved := (s.bins.get b).reserved - 1 } }.finishOrder
          (before ++ after) a.number (.aborted c)).growth).replied .press tag .ok
            [BitVec.ofNat 8 n, BitVec.ofNat 8 c.code])

/-- R93, R124, R125, R133, R135: TAKEN takes the called ply: the top record of its bin is popped and count and
reserved fall by one. The ply is taken, the call cleared and the hold timer restarted; with the last ply the
order finishes COMPLETE; a CLOSING order finishes with its abort cause, answered LATE. A freed slot is tried
for the head of the queue. That the ply taken keeps its planned bin is the model's choice, log 22. -/
def Obligations.TakenTakesTheTopRecord : Prop :=
  ∀ (s : State) (tag : Byte) (before after : List Active) (a : Active) (done left : List ActivePly) (p : ActivePly)
    (b : Fin 8) (r : SheetRecord) (rest : List SheetRecord),
    NoReset s → OrderInv s → s.active = before ++ a :: after → a.plies = done ++ p :: left →
    (∀ q ∈ done, q.taken = true) → p.taken = false → p.bin = some b → a.called ≠ none →
    (s.bins.get b).stack = r :: rest →
    let n : Nat := done.length + 1
    let popped : State := { s with bins := s.bins.set b { s.bins.get b with
      stack := rest, reserved := (s.bins.get b).reserved - 1 } }
    let answer (x : Nat) : List Byte := [BitVec.ofNat 8 n, BitVec.ofNat 8 b.val, BitVec.ofNat 8 x] ++ r.bytes
    ((∀ c, a.state ≠ .closing c) →
      (left ≠ [] → ∀ x : ActiveState, ((∃ q ∈ left, q.bin = none) → x = .stalled) →
        ((∀ q ∈ left, q.bin ≠ none) → x = .drawing) →
        exec (.taken .press tag a.number) s = .next ((s.announce { popped with
          active := before ++ { a with
            plies := done ++ { p with taken := true } :: left, called := none
            hold := some (s.ram.orderHoldTime * 1000), state := x } :: after }).replied
              .press tag .ok (answer left.length))) ∧
      (left = [] → exec (.taken .press tag a.number) s =
        .next ((s.announce (popped.finishOrder (before ++ after) a.number .complete).admissions).replied
          .press tag .ok (answer 0)))) ∧
    ∀ c, a.state = .closing c → exec (.taken .press tag a.number) s =
      .next ((s.announce (popped.finishOrder (before ++ after) a.number (.aborted c)).admissions).replied
        .press tag .late (answer c.code))

/-- R99, R100, R102, R122, R126, R127, R131: what the P port's commands refuse, and that a refusal changes nothing. That an
ORDER that does not carry one byte per ply is no valid recipe is the model's choice, log 12. -/
def Obligations.PressCommandsAreRefused : Prop :=
  ∀ (s : State) (tag : Byte) (number : Word), NoReset s → OrderInv s →
    let answers (c : Instr) (code : ResultCode) (f : List Byte) : Prop :=
      exec c s = .next (s.replied .press tag code f)
    (∀ (cls count : Byte) (plies : List Byte),
      let c : Instr := .order .press tag number cls count plies
      let valid : Prop := recipeSize count.toNat ∧ plies.length = count.toNat ∧ cls.toNat < 2 ∧
        ∀ b ∈ plies, b.toNat % 16 < 4 ∧ b.toNat / 16 < 2
      (¬ valid → answers c .badArgument []) ∧
      (valid → (∃ o ∈ s.queue, o.number = number) ∨ (∃ a ∈ s.active, a.number = number) →
        answers c .duplicate []) ∧
      (valid → (∀ o ∈ s.queue, o.number ≠ number) → (∀ a ∈ s.active, a.number ≠ number) → s.queue.length = 8 →
        answers c .queueFull [])) ∧
    ((∀ a ∈ s.active, a.number ≠ number) →
      answers (.nextPly .press tag number) .noSuchOrder [] ∧ answers (.taken .press tag number) .noSuchOrder [] ∧
      answers (.uncall .press tag number) .noSuchOrder [] ∧
      ((∀ o ∈ s.queue, o.number ≠ number) → answers (.cancel .press tag number) .noSuchOrder [])) ∧
    ∀ a ∈ s.active, a.number = number →
      ((∃ c, a.state = .closing c) →
        answers (.cancel .press tag number) .refused [] ∧ answers (.nextPly .press tag number) .refused []) ∧
      (a.called = none → answers (.uncall .press tag number) .notCalled [] ∧
        (a.withdrawn = none → answers (.taken .press tag number) .notCalled []) ∧
        ∀ n, a.withdrawn = some n → answers (.taken .press tag number) .withdrawn [BitVec.ofNat 8 n])

/-- R114, R115, Tables 5-9 and 7-11: ORDER_STATUS answers a waiting order's place, an active order's record, the
newest finished entry of the number, or NOT_FOUND, and changes nothing. That a ply already taken still shows its
planned bin, in bits 3 to 0 of its byte, is the model's choice, log 22. -/
def Obligations.OrderStatusReportsTheOrder : Prop :=
  ∀ (s : State) (tag : Byte) (number : Word), NoReset s → OrderInv s →
    let answers (code : ResultCode) (f : List Byte) : Prop :=
      exec (.orderStatus .press tag number) s = .next (s.replied .press tag code f)
    (∀ (before after : List Order) (o : Order), s.queue = before ++ o :: after → o.number = number →
      answers .ok (wordBytes number ++ [0x00, BitVec.ofNat 8 (before.length + 1), BitVec.ofNat 8 o.cls.code,
        BitVec.ofNat 8 o.plies.length])) ∧
    (∀ a ∈ s.active, a.number = number → ∃ f, answers .ok f ∧ f.length = 28 ∧ wordAt f 0 = number ∧
      (byteAt f 2).toNat = a.state.code ∧ (byteAt f 3).toNat = a.slot.val ∧ wordAt f 4 = a.seq ∧
      (byteAt f 6).toNat = a.cls.code ∧ (byteAt f 7).toNat = a.plies.length ∧
      (byteAt f 8).toNat = (a.plies.filter ActivePly.taken).length ∧
      (byteAt f 9).toNat = (match a.called with | some n => n | none => 0) ∧
      (wordAt f 10).toNat = (match a.hold with | some ms => (ms + 999) / 1000 % 65536 | none => 0) ∧
      (byteAt f 12).toNat = (match a.state with | .closing c => c.code | _ => 255) ∧
      ∀ i : Nat, i < 15 → match a.plies[i]? with
        | some q => (byteAt f (13 + i)).getLsbD 7 = q.taken ∧ (byteAt f (13 + i)).getLsbD 6 = q.ply.substitute ∧
            (byteAt f (13 + i)).toNat / 16 % 4 = q.ply.grade.code ∧
            (byteAt f (13 + i)).toNat % 16 = (match q.bin with | some b => b.val | none => 15)
        | none => byteAt f (13 + i) = 0) ∧
    ((∀ o ∈ s.queue, o.number ≠ number) → (∀ a ∈ s.active, a.number ≠ number) →
      (∀ (older newer : List Finished) (x : Finished), s.finished = older ++ x :: newer → x.number = number →
        (∀ y ∈ newer, y.number ≠ number) →
        answers .ok (wordBytes number ++ [0x05, BitVec.ofNat 8 x.outcome.code])) ∧
      ((∀ x ∈ s.finished, x.number ≠ number) → answers .notFound []))

/-! ## Settings, resets and faults -/

/-- R192, R193, R195, R166: a load that reads a good image installs its values, makes the settings valid and ends
SETTINGS_INVALID; any other installs the defaults, makes them invalid, and SETTINGS_INVALID occurs. A store
whose image reads back makes the settings valid, any other is a STORE_FAILED; it leaves RAM alone. Each sets
SETTINGS_DONE. The image of settings in their ranges loads back as they were. That a change which was
pending at a line the load reconfigures is marked lapsed is the model's choice, log 19, by which R184's edge does not
occur. What the EEPROM gave, and what was read back, are the commands' operands (log 10). R166, R195: the bytes that the part sends on the EEPROM bus, the 215 it
reads, and what a byte read, an acknowledge or its absence leads to, up to the command that ends the operation (the
EEPROM's side, and the direction bit of the address byte, are logs 2 and 23). -/
def Obligations.LoadsAndStoresEnd : Prop :=
  (∀ (s : State),
    let moved (b : Bus) : State := { s with bus := b }
    let ended (c : Instr) : State := { s with bus := .idle, pending := s.pending ++ [c] }
    (s.bus = .idle → s.busNext = none ∧ (∀ acked, s.takeInput (.busAck acked) = s) ∧
      ∀ byte, s.takeInput (.busData byte) = s) ∧
    (∀ sent bytes, s.bus = .reading sent bytes →
      (sent < 4 → s.busNext = (([0xA0, 0x00, 0x00, 0xA1] : List Byte)[sent]?).map .send ∧
        s.takeInput (.busAck true) = moved (.reading (sent + 1) bytes) ∧
        (s.op = .loading → s.takeInput (.busAck false) = ended (.loadEnd .noAck)) ∧
        (s.op = .storing → s.takeInput (.busAck false) = ended (.storeEnd .noAck))) ∧
      (4 ≤ sent → s.busNext = some (.receive (decide (bytes.length < 214))) ∧ ∀ byte,
        (bytes.length < 214 → s.takeInput (.busData byte) = moved (.reading sent (bytes ++ [byte]))) ∧
        (bytes.length = 214 → s.op = .loading →
          s.takeInput (.busData byte) = ended (.loadEnd (.image (bytes ++ [byte])))) ∧
        (bytes.length = 214 → s.op = .storing →
          s.takeInput (.busData byte) = ended (.storeEnd (.readBack (bytes ++ [byte])))))) ∧
    (∀ index sent, s.bus = .writing index sent → sent < 4 → s.op = .storing →
      s.busNext = (([0xA0, BitVec.ofNat 8 (index / 256), BitVec.ofNat 8 index, s.ram.image.getD index 0]
        : List Byte)[sent]?).map .send ∧
      s.takeInput (.busAck true) = moved (if sent = 3 then .waiting index 0 else .writing index (sent + 1)) ∧
      s.takeInput (.busAck false) = ended (.storeEnd .noAck)) ∧
    ∀ index waited, s.bus = .waiting index waited → s.busNext = some (.send 0xA0) ∧
      s.takeInput (.busAck true) = moved (if index < 214 then .writing (index + 1) 0 else .reading 0 []) ∧
      s.takeInput (.busAck false) = s) ∧
  ∀ (s : State), s.porstLow = false →
    (s.op = .loading → ∀ (read : LoadRead), (Instr.loadEnd read).wellFormed = true →
      let good (r : Settings) : Prop := ∃ bytes, read = .image bytes ∧ byteAt bytes 0 = 0x01 ∧
        (wordAt bytes 213).toNat = (((bytes.drop 1).take 212).map BitVec.toNat).sum % 65536 ∧
        ∀ i x, allSettings[i]? = some x → x.domain.holds (wordAt bytes (1 + 2 * i)).toNat = true ∧
          r.get x = (wordAt bytes (1 + 2 * i)).toNat
      ∀ r : Settings, (good r ∨ ((∀ r', ¬ good r') ∧ r = Settings.defaults)) →
      ∃ t, exec (.loadEnd read) s = .next t ∧ t.ram = r ∧ t.op = .idle ∧ t.bus = .idle ∧
        (good r → t.settingsValid = true ∧
          t.faults = s.faults.set .settingsInvalid { s.faults.get .settingsInvalid with pending := false } ∧
          t.firstFault = (if anyPending t.faults then s.firstFault else none) ∧
          FlagsRaised s t ((.line, 5) :: holdFlag s t ++ fullFlags s t)) ∧
        ((∀ r', ¬ good r') → t.settingsValid = false ∧
          t.faults = (s.faultOccurs .settingsInvalid).faults ∧
          t.firstFault = (s.faultOccurs .settingsInvalid).firstFault ∧
          FlagsRaised s t ((.line, 5) :: (if (s.faults.get .settingsInvalid).pending then [] else [(.line, 6)]) ++
            holdFlag s t ++ fullFlags s t)) ∧
        (∀ b, t.bins.get b = if (s.bins.get b).mode = .offline then { s.bins.get b with
          cls := r.binClass.get b, capacity := r.binCapacity.get b, margin := r.binMargin.get b }
          else s.bins.get b) ∧
        (∀ k, t.lines.get k = if s.ram.lineFunction.get k = r.lineFunction.get k ∧
            s.ram.lineInvert.get k = r.lineInvert.get k then s.lines.get k
          else { s.lines.get k with
            latch := false, differ := 0
            lapsed := match (s.lines.get k).debounced with
              | some d => if 8 ≤ (s.lines.get k).differ then some (!d) else (s.lines.get k).lapsed
              | none => (s.lines.get k).lapsed
            debounced := if (r.lineFunction.get k).isInput then
              some ((s.lines.get k).pin != r.lineInvert.get k) else none }) ∧
        SameSheets s t ∧ SameOrders s t ∧ SamePortsButFlags s t ∧ SamePins s t) ∧
    (s.op = .storing → ∀ (result : StoreResult) (good : Bool),
      (good = true ↔ result = .readBack s.ram.image) →
      ∃ t, exec (.storeEnd result) s = .next t ∧ t.op = .idle ∧ t.bus = .idle ∧ t.ram = s.ram ∧
        t.settingsValid = (s.settingsValid || good) ∧
        (good = true →
          t.faults = s.faults.set .settingsInvalid { s.faults.get .settingsInvalid with pending := false } ∧
          t.firstFault = (if anyPending t.faults then s.firstFault else none) ∧ FlagsRaised s t [(.line, 5)]) ∧
        (good = false → t.faults = (s.faultOccurs .storeFailed).faults ∧
          t.firstFault = (s.faultOccurs .storeFailed).firstFault ∧
          FlagsRaised s t ((.line, 5) :: if (s.faults.get .storeFailed).pending then [] else [(.line, 6)])) ∧
        t.bins = s.bins ∧ t.lines = s.lines ∧ SameSheets s t ∧ SameOrders s t ∧ SamePortsButFlags s t ∧
        SamePins s t) ∧
    (SettingsInv s → s.ram.image.length = 215 ∧ settingsOfImage s.ram.image = some s.ram)

/-- R198, R26, R98, R118, R160, R177, R188, R196: a line reset, by LRST_N or by RESET_LINE, empties the sheet table,
the order queue, the slots and the finished list, stops the intake, clears inbound and reserved, the lane
counts, the latches and every port's answer, errors and flags but LINE_RESET; stacks, DOWN flags, masks,
counters, faults and settings are kept. What LRST_N reads after it is the command's operand, log 5. -/
def Obligations.LineResetClearsTheWorkAndKeepsTheStacks : Prop :=
  ∀ (s : State), s.porstLow = false →
    ∃ u : State,
      (∀ p, u.port p = { s.port p with answer := none, frameErr := false, lastError := .none, flags := 0x8000 }) ∧
      (∀ k, u.health.get k = { s.health.get k with count := 0 }) ∧
      (∀ b, u.bins.get b = { s.bins.get b with inbound := 0, reserved := 0 }) ∧
      (∀ k, u.lines.get k = { s.lines.get k with latch := false }) ∧
      u = { s with
        intake := .stopped, suspended := none, resuming := none, retired := none, table := [], ahead := 0
        queue := [], active := [], finished := []
        health := u.health, bins := u.bins, ports := u.ports, lines := u.lines } ∧
      (∀ stays, exec (.lineReset stays) s = .next { u with lrstLow := stays }) ∧
      (s.lrstLow = false → ∀ tag, exec (.resetLine .line tag) s = .next (u.replied .line tag .ok []))

/-- R197, R146, R192: at the fall of PORST_N every block takes its power-on values; while it is low no command acts
but select, which begins no window, and the pins, and the attention outputs and FAULT_N are released (R176); at its
rise the load begins, and a line reset is taken where LRST_N is low. The pins' levels, and what waits for the part, are
the outside's (logs 3, 5, 6, 16). -/
def Obligations.PowerOnResetHoldsAndReleasesThePart : Prop :=
  (∀ s : State, ∃ t, exec .powerOnReset s = .next t ∧ t.porstLow = true ∧
    t.intake = .stopped ∧ t.table = [] ∧ t.ahead = 0 ∧ t.sheetCounter = 0 ∧ t.missed = 0 ∧ t.bad = 0 ∧ t.stray = 0 ∧
    t.rx = [] ∧ t.suspended = none ∧ t.resuming = none ∧ t.retired = none ∧
    (∀ k, t.health.get k = { count := 0, down := false }) ∧
    (∀ b, t.bins.get b = { mode := .offline, cls := defaultClass b, capacity := 200, margin := 10, inbound := 0
                           reserved := 0, stack := [] }) ∧
    t.queue = [] ∧ t.active = [] ∧ t.finished = [] ∧ t.admissionSeq = 0 ∧
    (∀ p, t.port p = { window := (t.port p).window, shift := Shift.fresh, sck := (s.port p).sck, sent := 0
                       answer := none, frameErr := false, lastError := .none, mask := 0xFFFF, flags := 0 } ∧
      (t.port p).sdo = none) ∧
    (∀ k, t.faults.get k = { pending := false, count := 0 }) ∧ t.firstFault = none ∧
    (∀ k, t.lines.get k = { pin := (s.lines.get k).pin, debounced := none, differ := 0, latch := false
                            lapsed := none } ∧
      t.lineDrive k = none) ∧
    t.ram = Settings.defaults ∧ t.settingsValid = false ∧ t.bus = .idle ∧ t.lrstLow = s.lrstLow ∧ t.inputs = s.inputs ∧
    t.pending = s.pending) ∧
  (∀ s : State, s.porstLow = true →
    (∀ p, s.attnAsserted p = false) ∧ s.faultN = false ∧
    (∀ c : Instr, (∀ p, c ≠ .selectFall p) → (∀ stays, c ≠ .lineReset stays) → c ≠ .powerOnReset →
      c ≠ .powerOnLoad → exec c s = .next s) ∧
    (∀ p, ∃ t, exec (.selectFall p) s = .next t ∧ t = s.setPort p { s.port p with window := .ignored } ∧
      (t.port p).sdo = none) ∧
    (∀ stays, exec (.lineReset stays) s = .next { s with lrstLow := stays }) ∧
    (s.lrstLow = false → exec .powerOnLoad s = .next { s with
      porstLow := false, op := .loading, bus := .reading 0 [] }) ∧
    (s.lrstLow = true → exec .powerOnLoad s =
      exec (.lineReset true) { s with porstLow := false, op := .loading, bus := .reading 0 [] })) ∧
  exec .powerOnLoad (State.powerOn State.reset) = .next State.reset

/-- R171, R172: an occurrence counts, saturating; a kind that was not pending becomes so, sets FAULT_RAISED, and makes
the first-fault record with the number of the last sheet opened, or, with another kind pending, counts in it
as a later fault; nothing else changes. -/
def Obligations.FaultOccurrencesAreRecorded : Prop :=
  ∀ (s : State) (k : FaultKind), FaultInv s →
    let t := s.faultOccurs k
    t.faults.get k = { pending := true, count := min 255 ((s.faults.get k).count + 1) } ∧
    (∀ j, j ≠ k → t.faults.get j = s.faults.get j) ∧
    t = { s with faults := t.faults, firstFault := t.firstFault, ports := t.ports } ∧
    ((s.faults.get k).pending = true → t.ports = s.ports ∧ t.firstFault = s.firstFault) ∧
    ((s.faults.get k).pending = false →
      (∀ p, t.port p = if p = .line then { s.port p with flags := (s.port p).flags ||| 0x0040 } else s.port p) ∧
      ((∀ j, (s.faults.get j).pending = false) →
        t.firstFault = some { kind := k, sheet := s.sheetCounter - 1, later := 0 }) ∧
      ∀ r, s.firstFault = some r → t.firstFault = some { r with later := min 255 (r.later + 1) })

/-! ## Whole-machine rules -/

/-- R167, R76, R185, R171: no command but READ_EVENTS, PORT_RESET and the resets clears an event flag; HOLD_CHANGED
is newly set exactly when the line-hold condition changed, BIN_CHANGED on both its ports when a bin changed
its state or its full condition, FAULT_RAISED when a fault kind became pending. -/
def Obligations.FlagsAreSetExactlyByTheirConditions : Prop :=
  ∀ (s t : State) (c : Instr), s.porstLow = false → clearsFlags c = false → exec c s = .next t →
    (∀ p n, (s.port p).flags.getLsbD n = true → (t.port p).flags.getLsbD n = true) ∧
    (t.port .line).flags.getLsbD 4 = ((s.port .line).flags.getLsbD 4 || (s.lineHold != t.lineHold)) ∧
    (let changed : Prop := ∃ b, (s.bins.get b).mode ≠ (t.bins.get b).mode ∨ (s.bins.get b).full ≠ (t.bins.get b).full
     ∀ p, p ≠ .press →
      ((t.port p).flags.getLsbD 7 = true ↔ (s.port p).flags.getLsbD 7 = true ∨ changed)) ∧
    ((t.port .line).flags.getLsbD 6 = true ↔ (s.port .line).flags.getLsbD 6 = true ∨
      ∃ k, (t.faults.get k).pending = true ∧ (s.faults.get k).pending = false)

/-! ## Invariants that every step keeps -/

/-- R7, R9, R12, R14, R16 to R20, R27, R28: every step, those of the model's own inputs among
them (log 2), keeps the invariants of the sheet table and of the intake. -/
def Obligations.StepKeepsTheSheetTableAndIntake : Prop :=
  ∀ s t : State, TableInv s → IntakeInv s → step s = .next t → TableInv t ∧ IntakeInv t

/-- R69 to R72, R75, R80, R84, R91: every step, those of the model's own inputs among them (log 2), keeps the
invariant of the bins. -/
def Obligations.StepKeepsTheBins : Prop :=
  ∀ s t : State, TableInv s → SettingsInv s → BinInv s → step s = .next t → BinInv t

/-- R91, R99, R101, R109, R113, R120, R121, R128, R132: every step, those of the model's own inputs among them
(log 2), keeps the invariant of the orders. -/
def Obligations.StepKeepsTheOrders : Prop :=
  ∀ s t : State, OrderInv s → step s = .next t → OrderInv t

/-- R22, R155, R167, R171, R172, R181, R182, R189: every step, those of the model's own inputs among them
(log 2), keeps the invariants of the settings, the faults, the ports and the lines; R166, R192, R195, R196: and the
place on the EEPROM bus fits the operation of the settings store (log 23). -/
def Obligations.StepKeepsSettingsFaultsPortsAndLines : Prop :=
  ∀ s t : State, step s = .next t →
    (SettingsInv s → SettingsInv t) ∧ (FaultInv s → FaultInv t) ∧ (LineInv s → LineInv t) ∧
    (OrderInv s → PortInv s → PortInv t) ∧ (BusInv s → BusInv t)

/-- The state after reset, as the model takes it (logs 3 and 6), meets every invariant. -/
def Obligations.ResetMeetsTheInvariants : Prop := Inv State.reset
end

