-- ==== Sys2Proof/Laws/Bank.lean ====
section
/-! SUPPORT. The laws of the banks: what is read after a write, and that a bank is its values. -/

namespace Sys2Proof.Machine

/-! ## Quad -/

@[simp] theorem Quad.get_set_self {α : Type} (q : Quad α) (i : Fin 4) (v : α) : (q.set i v).get i = v := by
  fin_cases i <;> rfl

theorem Quad.get_set_ne {α : Type} (q : Quad α) {i j : Fin 4} (v : α) (h : j ≠ i) : (q.set i v).get j = q.get j := by
  revert h; fin_cases i <;> fin_cases j <;> simp [Quad.set, Quad.get]

theorem Quad.get_set {α : Type} (q : Quad α) (i j : Fin 4) (v : α) :
    (q.set i v).get j = if j = i then v else q.get j := by
  by_cases h : j = i
  · rw [if_pos h, h, Quad.get_set_self]
  · rw [if_neg h, Quad.get_set_ne q v h]

theorem Quad.ext_get {α : Type} {q r : Quad α} (h : ∀ i, q.get i = r.get i) : q = r := by
  cases q; cases r
  congr 1 <;> first | exact h 0 | exact h 1 | exact h 2 | exact h 3

@[simp] theorem Quad.set_get {α : Type} (q : Quad α) (i : Fin 4) : q.set i (q.get i) = q := by
  fin_cases i <;> rfl

@[simp] theorem Quad.set_set {α : Type} (q : Quad α) (i : Fin 4) (v w : α) : (q.set i v).set i w = q.set i w := by
  fin_cases i <;> rfl

@[simp] theorem Quad.get_of {α : Type} (f : Fin 4 → α) (i : Fin 4) : (Quad.of f).get i = f i := by
  fin_cases i <;> rfl

@[simp] theorem Quad.of_get {α : Type} (q : Quad α) : Quad.of q.get = q := rfl

/-! ## Oct -/

@[simp] theorem Oct.get_set_self {α : Type} (q : Oct α) (i : Fin 8) (v : α) : (q.set i v).get i = v := by
  fin_cases i <;> rfl

theorem Oct.get_set_ne {α : Type} (q : Oct α) {i j : Fin 8} (v : α) (h : j ≠ i) : (q.set i v).get j = q.get j := by
  revert h; fin_cases i <;> fin_cases j <;> simp [Oct.set, Oct.get]

theorem Oct.get_set {α : Type} (q : Oct α) (i j : Fin 8) (v : α) :
    (q.set i v).get j = if j = i then v else q.get j := by
  by_cases h : j = i
  · rw [if_pos h, h, Oct.get_set_self]
  · rw [if_neg h, Oct.get_set_ne q v h]

theorem Oct.ext_get {α : Type} {q r : Oct α} (h : ∀ i, q.get i = r.get i) : q = r := by
  cases q; cases r
  congr 1 <;> first | exact h 0 | exact h 1 | exact h 2 | exact h 3 | exact h 4 | exact h 5 | exact h 6 | exact h 7

@[simp] theorem Oct.set_get {α : Type} (q : Oct α) (i : Fin 8) : q.set i (q.get i) = q := by
  fin_cases i <;> rfl

@[simp] theorem Oct.set_set {α : Type} (q : Oct α) (i : Fin 8) (v w : α) : (q.set i v).set i w = q.set i w := by
  fin_cases i <;> rfl

@[simp] theorem Oct.get_of {α : Type} (f : Fin 8 → α) (i : Fin 8) : (Oct.of f).get i = f i := by
  fin_cases i <;> rfl

@[simp] theorem Oct.of_get {α : Type} (q : Oct α) : Oct.of q.get = q := rfl

/-! ## PerGrade -/

@[simp] theorem PerGrade.get_set_self {α : Type} (q : PerGrade α) (i : Grade) (v : α) : (q.set i v).get i = v := by
  cases i <;> rfl

theorem PerGrade.get_set_ne {α : Type} (q : PerGrade α) {i j : Grade} (v : α) (h : j ≠ i) : (q.set i v).get j = q.get j := by
  revert h; cases i <;> cases j <;> simp [PerGrade.set, PerGrade.get]

theorem PerGrade.get_set {α : Type} (q : PerGrade α) (i j : Grade) (v : α) :
    (q.set i v).get j = if j = i then v else q.get j := by
  by_cases h : j = i
  · rw [if_pos h, h, PerGrade.get_set_self]
  · rw [if_neg h, PerGrade.get_set_ne q v h]

theorem PerGrade.ext_get {α : Type} {q r : PerGrade α} (h : ∀ i, q.get i = r.get i) : q = r := by
  cases q; cases r
  congr 1 <;> first | exact h .a | exact h .b | exact h .c | exact h .d

@[simp] theorem PerGrade.set_get {α : Type} (q : PerGrade α) (i : Grade) : q.set i (q.get i) = q := by
  cases i <;> rfl

@[simp] theorem PerGrade.set_set {α : Type} (q : PerGrade α) (i : Grade) (v w : α) : (q.set i v).set i w = q.set i w := by
  cases i <;> rfl

/-! ## PerType -/

@[simp] theorem PerType.get_set_self {α : Type} (q : PerType α) (i : DefectType) (v : α) : (q.set i v).get i = v := by
  cases i <;> rfl

theorem PerType.get_set_ne {α : Type} (q : PerType α) {i j : DefectType} (v : α) (h : j ≠ i) : (q.set i v).get j = q.get j := by
  revert h; cases i <;> cases j <;> simp [PerType.set, PerType.get]

theorem PerType.get_set {α : Type} (q : PerType α) (i j : DefectType) (v : α) :
    (q.set i v).get j = if j = i then v else q.get j := by
  by_cases h : j = i
  · rw [if_pos h, h, PerType.get_set_self]
  · rw [if_neg h, PerType.get_set_ne q v h]

theorem PerType.ext_get {α : Type} {q r : PerType α} (h : ∀ i, q.get i = r.get i) : q = r := by
  cases q; cases r
  congr 1 <;> first | exact h .soundKnot | exact h .looseKnot | exact h .hole | exact h .split | exact h .pitch | exact h .stain | exact h .rough

@[simp] theorem PerType.set_get {α : Type} (q : PerType α) (i : DefectType) : q.set i (q.get i) = q := by
  cases i <;> rfl

@[simp] theorem PerType.set_set {α : Type} (q : PerType α) (i : DefectType) (v w : α) : (q.set i v).set i w = q.set i w := by
  cases i <;> rfl

/-! ## PerPort -/

@[simp] theorem PerPort.get_set_self {α : Type} (q : PerPort α) (i : Port) (v : α) : (q.set i v).get i = v := by
  cases i <;> rfl

theorem PerPort.get_set_ne {α : Type} (q : PerPort α) {i j : Port} (v : α) (h : j ≠ i) : (q.set i v).get j = q.get j := by
  revert h; cases i <;> cases j <;> simp [PerPort.set, PerPort.get]

theorem PerPort.get_set {α : Type} (q : PerPort α) (i j : Port) (v : α) :
    (q.set i v).get j = if j = i then v else q.get j := by
  by_cases h : j = i
  · rw [if_pos h, h, PerPort.get_set_self]
  · rw [if_neg h, PerPort.get_set_ne q v h]

theorem PerPort.ext_get {α : Type} {q r : PerPort α} (h : ∀ i, q.get i = r.get i) : q = r := by
  cases q; cases r
  congr 1 <;> first | exact h .line | exact h .stacker | exact h .press

@[simp] theorem PerPort.set_get {α : Type} (q : PerPort α) (i : Port) : q.set i (q.get i) = q := by
  cases i <;> rfl

@[simp] theorem PerPort.set_set {α : Type} (q : PerPort α) (i : Port) (v w : α) : (q.set i v).set i w = q.set i w := by
  cases i <;> rfl

@[simp] theorem PerPort.get_of {α : Type} (f : Port → α) (i : Port) : (PerPort.of f).get i = f i := by
  cases i <;> rfl

@[simp] theorem PerPort.of_get {α : Type} (q : PerPort α) : PerPort.of q.get = q := rfl

/-! ## PerFault -/

@[simp] theorem PerFault.get_set_self {α : Type} (q : PerFault α) (i : FaultKind) (v : α) : (q.set i v).get i = v := by
  cases i <;> rfl

theorem PerFault.get_set_ne {α : Type} (q : PerFault α) {i j : FaultKind} (v : α) (h : j ≠ i) : (q.set i v).get j = q.get j := by
  revert h; cases i <;> cases j <;> simp [PerFault.set, PerFault.get]

theorem PerFault.get_set {α : Type} (q : PerFault α) (i j : FaultKind) (v : α) :
    (q.set i v).get j = if j = i then v else q.get j := by
  by_cases h : j = i
  · rw [if_pos h, h, PerFault.get_set_self]
  · rw [if_neg h, PerFault.get_set_ne q v h]

theorem PerFault.ext_get {α : Type} {q r : PerFault α} (h : ∀ i, q.get i = r.get i) : q = r := by
  cases q; cases r
  congr 1 <;> first | exact h .settingsInvalid | exact h .storeFailed | exact h .syncLost | exact h .outOfOrder | exact h .laneDown

@[simp] theorem PerFault.set_get {α : Type} (q : PerFault α) (i : FaultKind) : q.set i (q.get i) = q := by
  cases i <;> rfl

@[simp] theorem PerFault.set_set {α : Type} (q : PerFault α) (i : FaultKind) (v w : α) : (q.set i v).set i w = q.set i w := by
  cases i <;> rfl

@[simp] theorem PerFault.get_of {α : Type} (f : FaultKind → α) (i : FaultKind) : (PerFault.of f).get i = f i := by
  cases i <;> rfl

@[simp] theorem PerFault.of_get {α : Type} (q : PerFault α) : PerFault.of q.get = q := rfl

/-! ## The lists of all members -/

@[simp] theorem mem_fourLanes (k : Fin 4) : k ∈ fourLanes := by fin_cases k <;> decide

@[simp] theorem mem_eight (i : Fin 8) : i ∈ eight := by fin_cases i <;> decide

@[simp] theorem mem_faultKinds (k : FaultKind) : k ∈ faultKinds := by cases k <;> decide

theorem fourLanes_nodup : fourLanes.Nodup := by decide

theorem eight_nodup : eight.Nodup := by decide

end Sys2Proof.Machine
end

