-- ==== Sys2Proof/Laws/State.lean ====
section
/-! SUPPORT. One lemma per field per update of State: what an update does not write reads as before. -/

namespace Sys2Proof.Machine

/-! ## setPort -/

@[simp] theorem State.setPort_rx (s : State) (p : Port) (x : PortState) : (s.setPort p x).rx = s.rx := rfl
@[simp] theorem State.setPort_missed (s : State) (p : Port) (x : PortState) : (s.setPort p x).missed = s.missed := rfl
@[simp] theorem State.setPort_bad (s : State) (p : Port) (x : PortState) : (s.setPort p x).bad = s.bad := rfl
@[simp] theorem State.setPort_stray (s : State) (p : Port) (x : PortState) : (s.setPort p x).stray = s.stray := rfl
@[simp] theorem State.setPort_intake (s : State) (p : Port) (x : PortState) : (s.setPort p x).intake = s.intake := rfl
@[simp] theorem State.setPort_suspended (s : State) (p : Port) (x : PortState) : (s.setPort p x).suspended = s.suspended :=
    rfl
@[simp] theorem State.setPort_resuming (s : State) (p : Port) (x : PortState) : (s.setPort p x).resuming = s.resuming :=
    rfl
@[simp] theorem State.setPort_retired (s : State) (p : Port) (x : PortState) : (s.setPort p x).retired = s.retired :=
    rfl
@[simp] theorem State.setPort_table (s : State) (p : Port) (x : PortState) : (s.setPort p x).table = s.table := rfl
@[simp] theorem State.setPort_ahead (s : State) (p : Port) (x : PortState) : (s.setPort p x).ahead = s.ahead := rfl
@[simp] theorem State.setPort_sheetCounter (s : State) (p : Port) (x : PortState) : (s.setPort p x).sheetCounter = s.sheetCounter :=
    rfl
@[simp] theorem State.setPort_health (s : State) (p : Port) (x : PortState) : (s.setPort p x).health = s.health := rfl
@[simp] theorem State.setPort_bins (s : State) (p : Port) (x : PortState) : (s.setPort p x).bins = s.bins := rfl
@[simp] theorem State.setPort_queue (s : State) (p : Port) (x : PortState) : (s.setPort p x).queue = s.queue := rfl
@[simp] theorem State.setPort_active (s : State) (p : Port) (x : PortState) : (s.setPort p x).active = s.active := rfl
@[simp] theorem State.setPort_finished (s : State) (p : Port) (x : PortState) : (s.setPort p x).finished = s.finished :=
    rfl
@[simp] theorem State.setPort_admissionSeq (s : State) (p : Port) (x : PortState) : (s.setPort p x).admissionSeq = s.admissionSeq :=
    rfl
@[simp] theorem State.setPort_faults (s : State) (p : Port) (x : PortState) : (s.setPort p x).faults = s.faults := rfl
@[simp] theorem State.setPort_firstFault (s : State) (p : Port) (x : PortState) : (s.setPort p x).firstFault = s.firstFault :=
    rfl
@[simp] theorem State.setPort_lines (s : State) (p : Port) (x : PortState) : (s.setPort p x).lines = s.lines := rfl
@[simp] theorem State.setPort_ram (s : State) (p : Port) (x : PortState) : (s.setPort p x).ram = s.ram := rfl
@[simp] theorem State.setPort_settingsValid (s : State) (p : Port) (x : PortState) : (s.setPort p x).settingsValid = s.settingsValid :=
    rfl
@[simp] theorem State.setPort_op (s : State) (p : Port) (x : PortState) : (s.setPort p x).op = s.op := rfl
@[simp] theorem State.setPort_bus (s : State) (p : Port) (x : PortState) : (s.setPort p x).bus = s.bus := rfl
@[simp] theorem State.setPort_lrstLow (s : State) (p : Port) (x : PortState) : (s.setPort p x).lrstLow = s.lrstLow :=
    rfl
@[simp] theorem State.setPort_porstLow (s : State) (p : Port) (x : PortState) : (s.setPort p x).porstLow = s.porstLow :=
    rfl
@[simp] theorem State.setPort_inputs (s : State) (p : Port) (x : PortState) : (s.setPort p x).inputs = s.inputs := rfl
@[simp] theorem State.setPort_pending (s : State) (p : Port) (x : PortState) : (s.setPort p x).pending = s.pending :=
    rfl

/-! ## setBin -/

@[simp] theorem State.setBin_rx (s : State) (b : Fin 8) (r : Bin) : (s.setBin b r).rx = s.rx := rfl
@[simp] theorem State.setBin_missed (s : State) (b : Fin 8) (r : Bin) : (s.setBin b r).missed = s.missed := rfl
@[simp] theorem State.setBin_bad (s : State) (b : Fin 8) (r : Bin) : (s.setBin b r).bad = s.bad := rfl
@[simp] theorem State.setBin_stray (s : State) (b : Fin 8) (r : Bin) : (s.setBin b r).stray = s.stray := rfl
@[simp] theorem State.setBin_intake (s : State) (b : Fin 8) (r : Bin) : (s.setBin b r).intake = s.intake := rfl
@[simp] theorem State.setBin_suspended (s : State) (b : Fin 8) (r : Bin) : (s.setBin b r).suspended = s.suspended := rfl
@[simp] theorem State.setBin_resuming (s : State) (b : Fin 8) (r : Bin) : (s.setBin b r).resuming = s.resuming := rfl
@[simp] theorem State.setBin_retired (s : State) (b : Fin 8) (r : Bin) : (s.setBin b r).retired = s.retired := rfl
@[simp] theorem State.setBin_table (s : State) (b : Fin 8) (r : Bin) : (s.setBin b r).table = s.table := rfl
@[simp] theorem State.setBin_ahead (s : State) (b : Fin 8) (r : Bin) : (s.setBin b r).ahead = s.ahead := rfl
@[simp] theorem State.setBin_sheetCounter (s : State) (b : Fin 8) (r : Bin) : (s.setBin b r).sheetCounter = s.sheetCounter :=
    rfl
@[simp] theorem State.setBin_health (s : State) (b : Fin 8) (r : Bin) : (s.setBin b r).health = s.health := rfl
@[simp] theorem State.setBin_queue (s : State) (b : Fin 8) (r : Bin) : (s.setBin b r).queue = s.queue := rfl
@[simp] theorem State.setBin_active (s : State) (b : Fin 8) (r : Bin) : (s.setBin b r).active = s.active := rfl
@[simp] theorem State.setBin_finished (s : State) (b : Fin 8) (r : Bin) : (s.setBin b r).finished = s.finished := rfl
@[simp] theorem State.setBin_admissionSeq (s : State) (b : Fin 8) (r : Bin) : (s.setBin b r).admissionSeq = s.admissionSeq :=
    rfl
@[simp] theorem State.setBin_ports (s : State) (b : Fin 8) (r : Bin) : (s.setBin b r).ports = s.ports := rfl
@[simp] theorem State.setBin_faults (s : State) (b : Fin 8) (r : Bin) : (s.setBin b r).faults = s.faults := rfl
@[simp] theorem State.setBin_firstFault (s : State) (b : Fin 8) (r : Bin) : (s.setBin b r).firstFault = s.firstFault :=
    rfl
@[simp] theorem State.setBin_lines (s : State) (b : Fin 8) (r : Bin) : (s.setBin b r).lines = s.lines := rfl
@[simp] theorem State.setBin_ram (s : State) (b : Fin 8) (r : Bin) : (s.setBin b r).ram = s.ram := rfl
@[simp] theorem State.setBin_settingsValid (s : State) (b : Fin 8) (r : Bin) : (s.setBin b r).settingsValid = s.settingsValid :=
    rfl
@[simp] theorem State.setBin_op (s : State) (b : Fin 8) (r : Bin) : (s.setBin b r).op = s.op := rfl
@[simp] theorem State.setBin_bus (s : State) (b : Fin 8) (r : Bin) : (s.setBin b r).bus = s.bus := rfl
@[simp] theorem State.setBin_lrstLow (s : State) (b : Fin 8) (r : Bin) : (s.setBin b r).lrstLow = s.lrstLow := rfl
@[simp] theorem State.setBin_porstLow (s : State) (b : Fin 8) (r : Bin) : (s.setBin b r).porstLow = s.porstLow := rfl
@[simp] theorem State.setBin_inputs (s : State) (b : Fin 8) (r : Bin) : (s.setBin b r).inputs = s.inputs := rfl
@[simp] theorem State.setBin_pending (s : State) (b : Fin 8) (r : Bin) : (s.setBin b r).pending = s.pending := rfl

/-! ## setEntry -/

@[simp] theorem State.setEntry_rx (s : State) (e : Entry) : (s.setEntry e).rx = s.rx := rfl
@[simp] theorem State.setEntry_missed (s : State) (e : Entry) : (s.setEntry e).missed = s.missed := rfl
@[simp] theorem State.setEntry_bad (s : State) (e : Entry) : (s.setEntry e).bad = s.bad := rfl
@[simp] theorem State.setEntry_stray (s : State) (e : Entry) : (s.setEntry e).stray = s.stray := rfl
@[simp] theorem State.setEntry_intake (s : State) (e : Entry) : (s.setEntry e).intake = s.intake := rfl
@[simp] theorem State.setEntry_suspended (s : State) (e : Entry) : (s.setEntry e).suspended = s.suspended := rfl
@[simp] theorem State.setEntry_resuming (s : State) (e : Entry) : (s.setEntry e).resuming = s.resuming := rfl
@[simp] theorem State.setEntry_retired (s : State) (e : Entry) : (s.setEntry e).retired = s.retired := rfl
@[simp] theorem State.setEntry_ahead (s : State) (e : Entry) : (s.setEntry e).ahead = s.ahead := rfl
@[simp] theorem State.setEntry_sheetCounter (s : State) (e : Entry) : (s.setEntry e).sheetCounter = s.sheetCounter :=
    rfl
@[simp] theorem State.setEntry_health (s : State) (e : Entry) : (s.setEntry e).health = s.health := rfl
@[simp] theorem State.setEntry_bins (s : State) (e : Entry) : (s.setEntry e).bins = s.bins := rfl
@[simp] theorem State.setEntry_queue (s : State) (e : Entry) : (s.setEntry e).queue = s.queue := rfl
@[simp] theorem State.setEntry_active (s : State) (e : Entry) : (s.setEntry e).active = s.active := rfl
@[simp] theorem State.setEntry_finished (s : State) (e : Entry) : (s.setEntry e).finished = s.finished := rfl
@[simp] theorem State.setEntry_admissionSeq (s : State) (e : Entry) : (s.setEntry e).admissionSeq = s.admissionSeq :=
    rfl
@[simp] theorem State.setEntry_ports (s : State) (e : Entry) : (s.setEntry e).ports = s.ports := rfl
@[simp] theorem State.setEntry_faults (s : State) (e : Entry) : (s.setEntry e).faults = s.faults := rfl
@[simp] theorem State.setEntry_firstFault (s : State) (e : Entry) : (s.setEntry e).firstFault = s.firstFault := rfl
@[simp] theorem State.setEntry_lines (s : State) (e : Entry) : (s.setEntry e).lines = s.lines := rfl
@[simp] theorem State.setEntry_ram (s : State) (e : Entry) : (s.setEntry e).ram = s.ram := rfl
@[simp] theorem State.setEntry_settingsValid (s : State) (e : Entry) : (s.setEntry e).settingsValid = s.settingsValid :=
    rfl
@[simp] theorem State.setEntry_op (s : State) (e : Entry) : (s.setEntry e).op = s.op := rfl
@[simp] theorem State.setEntry_bus (s : State) (e : Entry) : (s.setEntry e).bus = s.bus := rfl
@[simp] theorem State.setEntry_lrstLow (s : State) (e : Entry) : (s.setEntry e).lrstLow = s.lrstLow := rfl
@[simp] theorem State.setEntry_porstLow (s : State) (e : Entry) : (s.setEntry e).porstLow = s.porstLow := rfl
@[simp] theorem State.setEntry_inputs (s : State) (e : Entry) : (s.setEntry e).inputs = s.inputs := rfl
@[simp] theorem State.setEntry_pending (s : State) (e : Entry) : (s.setEntry e).pending = s.pending := rfl

/-! ## setActive -/

@[simp] theorem State.setActive_rx (s : State) (a : Active) : (s.setActive a).rx = s.rx := rfl
@[simp] theorem State.setActive_missed (s : State) (a : Active) : (s.setActive a).missed = s.missed := rfl
@[simp] theorem State.setActive_bad (s : State) (a : Active) : (s.setActive a).bad = s.bad := rfl
@[simp] theorem State.setActive_stray (s : State) (a : Active) : (s.setActive a).stray = s.stray := rfl
@[simp] theorem State.setActive_intake (s : State) (a : Active) : (s.setActive a).intake = s.intake := rfl
@[simp] theorem State.setActive_suspended (s : State) (a : Active) : (s.setActive a).suspended = s.suspended := rfl
@[simp] theorem State.setActive_resuming (s : State) (a : Active) : (s.setActive a).resuming = s.resuming := rfl
@[simp] theorem State.setActive_retired (s : State) (a : Active) : (s.setActive a).retired = s.retired := rfl
@[simp] theorem State.setActive_table (s : State) (a : Active) : (s.setActive a).table = s.table := rfl
@[simp] theorem State.setActive_ahead (s : State) (a : Active) : (s.setActive a).ahead = s.ahead := rfl
@[simp] theorem State.setActive_sheetCounter (s : State) (a : Active) : (s.setActive a).sheetCounter = s.sheetCounter :=
    rfl
@[simp] theorem State.setActive_health (s : State) (a : Active) : (s.setActive a).health = s.health := rfl
@[simp] theorem State.setActive_bins (s : State) (a : Active) : (s.setActive a).bins = s.bins := rfl
@[simp] theorem State.setActive_queue (s : State) (a : Active) : (s.setActive a).queue = s.queue := rfl
@[simp] theorem State.setActive_finished (s : State) (a : Active) : (s.setActive a).finished = s.finished := rfl
@[simp] theorem State.setActive_admissionSeq (s : State) (a : Active) : (s.setActive a).admissionSeq = s.admissionSeq :=
    rfl
@[simp] theorem State.setActive_ports (s : State) (a : Active) : (s.setActive a).ports = s.ports := rfl
@[simp] theorem State.setActive_faults (s : State) (a : Active) : (s.setActive a).faults = s.faults := rfl
@[simp] theorem State.setActive_firstFault (s : State) (a : Active) : (s.setActive a).firstFault = s.firstFault := rfl
@[simp] theorem State.setActive_lines (s : State) (a : Active) : (s.setActive a).lines = s.lines := rfl
@[simp] theorem State.setActive_ram (s : State) (a : Active) : (s.setActive a).ram = s.ram := rfl
@[simp] theorem State.setActive_settingsValid (s : State) (a : Active) : (s.setActive a).settingsValid = s.settingsValid :=
    rfl
@[simp] theorem State.setActive_op (s : State) (a : Active) : (s.setActive a).op = s.op := rfl
@[simp] theorem State.setActive_bus (s : State) (a : Active) : (s.setActive a).bus = s.bus := rfl
@[simp] theorem State.setActive_lrstLow (s : State) (a : Active) : (s.setActive a).lrstLow = s.lrstLow := rfl
@[simp] theorem State.setActive_porstLow (s : State) (a : Active) : (s.setActive a).porstLow = s.porstLow := rfl
@[simp] theorem State.setActive_inputs (s : State) (a : Active) : (s.setActive a).inputs = s.inputs := rfl
@[simp] theorem State.setActive_pending (s : State) (a : Active) : (s.setActive a).pending = s.pending := rfl

/-! ## freeSlot -/

@[simp] theorem State.freeSlot_rx (s : State) (k : Fin 2) : (s.freeSlot k).rx = s.rx := rfl
@[simp] theorem State.freeSlot_missed (s : State) (k : Fin 2) : (s.freeSlot k).missed = s.missed := rfl
@[simp] theorem State.freeSlot_bad (s : State) (k : Fin 2) : (s.freeSlot k).bad = s.bad := rfl
@[simp] theorem State.freeSlot_stray (s : State) (k : Fin 2) : (s.freeSlot k).stray = s.stray := rfl
@[simp] theorem State.freeSlot_intake (s : State) (k : Fin 2) : (s.freeSlot k).intake = s.intake := rfl
@[simp] theorem State.freeSlot_suspended (s : State) (k : Fin 2) : (s.freeSlot k).suspended = s.suspended := rfl
@[simp] theorem State.freeSlot_resuming (s : State) (k : Fin 2) : (s.freeSlot k).resuming = s.resuming := rfl
@[simp] theorem State.freeSlot_retired (s : State) (k : Fin 2) : (s.freeSlot k).retired = s.retired := rfl
@[simp] theorem State.freeSlot_table (s : State) (k : Fin 2) : (s.freeSlot k).table = s.table := rfl
@[simp] theorem State.freeSlot_ahead (s : State) (k : Fin 2) : (s.freeSlot k).ahead = s.ahead := rfl
@[simp] theorem State.freeSlot_sheetCounter (s : State) (k : Fin 2) : (s.freeSlot k).sheetCounter = s.sheetCounter :=
    rfl
@[simp] theorem State.freeSlot_health (s : State) (k : Fin 2) : (s.freeSlot k).health = s.health := rfl
@[simp] theorem State.freeSlot_bins (s : State) (k : Fin 2) : (s.freeSlot k).bins = s.bins := rfl
@[simp] theorem State.freeSlot_queue (s : State) (k : Fin 2) : (s.freeSlot k).queue = s.queue := rfl
@[simp] theorem State.freeSlot_finished (s : State) (k : Fin 2) : (s.freeSlot k).finished = s.finished := rfl
@[simp] theorem State.freeSlot_admissionSeq (s : State) (k : Fin 2) : (s.freeSlot k).admissionSeq = s.admissionSeq :=
    rfl
@[simp] theorem State.freeSlot_ports (s : State) (k : Fin 2) : (s.freeSlot k).ports = s.ports := rfl
@[simp] theorem State.freeSlot_faults (s : State) (k : Fin 2) : (s.freeSlot k).faults = s.faults := rfl
@[simp] theorem State.freeSlot_firstFault (s : State) (k : Fin 2) : (s.freeSlot k).firstFault = s.firstFault := rfl
@[simp] theorem State.freeSlot_lines (s : State) (k : Fin 2) : (s.freeSlot k).lines = s.lines := rfl
@[simp] theorem State.freeSlot_ram (s : State) (k : Fin 2) : (s.freeSlot k).ram = s.ram := rfl
@[simp] theorem State.freeSlot_settingsValid (s : State) (k : Fin 2) : (s.freeSlot k).settingsValid = s.settingsValid :=
    rfl
@[simp] theorem State.freeSlot_op (s : State) (k : Fin 2) : (s.freeSlot k).op = s.op := rfl
@[simp] theorem State.freeSlot_bus (s : State) (k : Fin 2) : (s.freeSlot k).bus = s.bus := rfl
@[simp] theorem State.freeSlot_lrstLow (s : State) (k : Fin 2) : (s.freeSlot k).lrstLow = s.lrstLow := rfl
@[simp] theorem State.freeSlot_porstLow (s : State) (k : Fin 2) : (s.freeSlot k).porstLow = s.porstLow := rfl
@[simp] theorem State.freeSlot_inputs (s : State) (k : Fin 2) : (s.freeSlot k).inputs = s.inputs := rfl
@[simp] theorem State.freeSlot_pending (s : State) (k : Fin 2) : (s.freeSlot k).pending = s.pending := rfl

/-! ## carryUnscanned -/

@[simp] theorem State.carryUnscanned_rx (s : State) (e : Entry) : (s.carryUnscanned e).rx = s.rx := rfl
@[simp] theorem State.carryUnscanned_missed (s : State) (e : Entry) : (s.carryUnscanned e).missed = s.missed := rfl
@[simp] theorem State.carryUnscanned_bad (s : State) (e : Entry) : (s.carryUnscanned e).bad = s.bad := rfl
@[simp] theorem State.carryUnscanned_stray (s : State) (e : Entry) : (s.carryUnscanned e).stray = s.stray := rfl
@[simp] theorem State.carryUnscanned_intake (s : State) (e : Entry) : (s.carryUnscanned e).intake = s.intake := rfl
@[simp] theorem State.carryUnscanned_suspended (s : State) (e : Entry) : (s.carryUnscanned e).suspended = s.suspended :=
    rfl
@[simp] theorem State.carryUnscanned_resuming (s : State) (e : Entry) : (s.carryUnscanned e).resuming = s.resuming :=
    rfl
@[simp] theorem State.carryUnscanned_retired (s : State) (e : Entry) : (s.carryUnscanned e).retired = s.retired := rfl
@[simp] theorem State.carryUnscanned_table (s : State) (e : Entry) : (s.carryUnscanned e).table = s.table := rfl
@[simp] theorem State.carryUnscanned_sheetCounter (s : State) (e : Entry) : (s.carryUnscanned e).sheetCounter = s.sheetCounter :=
    rfl
@[simp] theorem State.carryUnscanned_health (s : State) (e : Entry) : (s.carryUnscanned e).health = s.health := rfl
@[simp] theorem State.carryUnscanned_bins (s : State) (e : Entry) : (s.carryUnscanned e).bins = s.bins := rfl
@[simp] theorem State.carryUnscanned_queue (s : State) (e : Entry) : (s.carryUnscanned e).queue = s.queue := rfl
@[simp] theorem State.carryUnscanned_active (s : State) (e : Entry) : (s.carryUnscanned e).active = s.active := rfl
@[simp] theorem State.carryUnscanned_finished (s : State) (e : Entry) : (s.carryUnscanned e).finished = s.finished :=
    rfl
@[simp] theorem State.carryUnscanned_admissionSeq (s : State) (e : Entry) : (s.carryUnscanned e).admissionSeq = s.admissionSeq :=
    rfl
@[simp] theorem State.carryUnscanned_ports (s : State) (e : Entry) : (s.carryUnscanned e).ports = s.ports := rfl
@[simp] theorem State.carryUnscanned_faults (s : State) (e : Entry) : (s.carryUnscanned e).faults = s.faults := rfl
@[simp] theorem State.carryUnscanned_firstFault (s : State) (e : Entry) : (s.carryUnscanned e).firstFault = s.firstFault :=
    rfl
@[simp] theorem State.carryUnscanned_lines (s : State) (e : Entry) : (s.carryUnscanned e).lines = s.lines := rfl
@[simp] theorem State.carryUnscanned_ram (s : State) (e : Entry) : (s.carryUnscanned e).ram = s.ram := rfl
@[simp] theorem State.carryUnscanned_settingsValid (s : State) (e : Entry) : (s.carryUnscanned e).settingsValid = s.settingsValid :=
    rfl
@[simp] theorem State.carryUnscanned_op (s : State) (e : Entry) : (s.carryUnscanned e).op = s.op := rfl
@[simp] theorem State.carryUnscanned_bus (s : State) (e : Entry) : (s.carryUnscanned e).bus = s.bus := rfl
@[simp] theorem State.carryUnscanned_lrstLow (s : State) (e : Entry) : (s.carryUnscanned e).lrstLow = s.lrstLow := rfl
@[simp] theorem State.carryUnscanned_porstLow (s : State) (e : Entry) : (s.carryUnscanned e).porstLow = s.porstLow :=
    rfl
@[simp] theorem State.carryUnscanned_inputs (s : State) (e : Entry) : (s.carryUnscanned e).inputs = s.inputs := rfl
@[simp] theorem State.carryUnscanned_pending (s : State) (e : Entry) : (s.carryUnscanned e).pending = s.pending := rfl

/-! ## countStray -/

@[simp] theorem State.countStray_rx (s : State)  : (s.countStray).rx = s.rx := rfl
@[simp] theorem State.countStray_missed (s : State)  : (s.countStray).missed = s.missed := rfl
@[simp] theorem State.countStray_bad (s : State)  : (s.countStray).bad = s.bad := rfl
@[simp] theorem State.countStray_intake (s : State)  : (s.countStray).intake = s.intake := rfl
@[simp] theorem State.countStray_suspended (s : State)  : (s.countStray).suspended = s.suspended := rfl
@[simp] theorem State.countStray_resuming (s : State)  : (s.countStray).resuming = s.resuming := rfl
@[simp] theorem State.countStray_retired (s : State)  : (s.countStray).retired = s.retired := rfl
@[simp] theorem State.countStray_table (s : State)  : (s.countStray).table = s.table := rfl
@[simp] theorem State.countStray_ahead (s : State)  : (s.countStray).ahead = s.ahead := rfl
@[simp] theorem State.countStray_sheetCounter (s : State)  : (s.countStray).sheetCounter = s.sheetCounter := rfl
@[simp] theorem State.countStray_health (s : State)  : (s.countStray).health = s.health := rfl
@[simp] theorem State.countStray_bins (s : State)  : (s.countStray).bins = s.bins := rfl
@[simp] theorem State.countStray_queue (s : State)  : (s.countStray).queue = s.queue := rfl
@[simp] theorem State.countStray_active (s : State)  : (s.countStray).active = s.active := rfl
@[simp] theorem State.countStray_finished (s : State)  : (s.countStray).finished = s.finished := rfl
@[simp] theorem State.countStray_admissionSeq (s : State)  : (s.countStray).admissionSeq = s.admissionSeq := rfl
@[simp] theorem State.countStray_ports (s : State)  : (s.countStray).ports = s.ports := rfl
@[simp] theorem State.countStray_faults (s : State)  : (s.countStray).faults = s.faults := rfl
@[simp] theorem State.countStray_firstFault (s : State)  : (s.countStray).firstFault = s.firstFault := rfl
@[simp] theorem State.countStray_lines (s : State)  : (s.countStray).lines = s.lines := rfl
@[simp] theorem State.countStray_ram (s : State)  : (s.countStray).ram = s.ram := rfl
@[simp] theorem State.countStray_settingsValid (s : State)  : (s.countStray).settingsValid = s.settingsValid := rfl
@[simp] theorem State.countStray_op (s : State)  : (s.countStray).op = s.op := rfl
@[simp] theorem State.countStray_bus (s : State)  : (s.countStray).bus = s.bus := rfl
@[simp] theorem State.countStray_lrstLow (s : State)  : (s.countStray).lrstLow = s.lrstLow := rfl
@[simp] theorem State.countStray_porstLow (s : State)  : (s.countStray).porstLow = s.porstLow := rfl
@[simp] theorem State.countStray_inputs (s : State)  : (s.countStray).inputs = s.inputs := rfl
@[simp] theorem State.countStray_pending (s : State)  : (s.countStray).pending = s.pending := rfl

/-! ## setFlag -/

@[simp] theorem State.setFlag_rx (s : State) (pn : Port × Nat) : (s.setFlag pn).rx = s.rx := rfl
@[simp] theorem State.setFlag_missed (s : State) (pn : Port × Nat) : (s.setFlag pn).missed = s.missed := rfl
@[simp] theorem State.setFlag_bad (s : State) (pn : Port × Nat) : (s.setFlag pn).bad = s.bad := rfl
@[simp] theorem State.setFlag_stray (s : State) (pn : Port × Nat) : (s.setFlag pn).stray = s.stray := rfl
@[simp] theorem State.setFlag_intake (s : State) (pn : Port × Nat) : (s.setFlag pn).intake = s.intake := rfl
@[simp] theorem State.setFlag_suspended (s : State) (pn : Port × Nat) : (s.setFlag pn).suspended = s.suspended := rfl
@[simp] theorem State.setFlag_resuming (s : State) (pn : Port × Nat) : (s.setFlag pn).resuming = s.resuming := rfl
@[simp] theorem State.setFlag_retired (s : State) (pn : Port × Nat) : (s.setFlag pn).retired = s.retired := rfl
@[simp] theorem State.setFlag_table (s : State) (pn : Port × Nat) : (s.setFlag pn).table = s.table := rfl
@[simp] theorem State.setFlag_ahead (s : State) (pn : Port × Nat) : (s.setFlag pn).ahead = s.ahead := rfl
@[simp] theorem State.setFlag_sheetCounter (s : State) (pn : Port × Nat) : (s.setFlag pn).sheetCounter = s.sheetCounter :=
    rfl
@[simp] theorem State.setFlag_health (s : State) (pn : Port × Nat) : (s.setFlag pn).health = s.health := rfl
@[simp] theorem State.setFlag_bins (s : State) (pn : Port × Nat) : (s.setFlag pn).bins = s.bins := rfl
@[simp] theorem State.setFlag_queue (s : State) (pn : Port × Nat) : (s.setFlag pn).queue = s.queue := rfl
@[simp] theorem State.setFlag_active (s : State) (pn : Port × Nat) : (s.setFlag pn).active = s.active := rfl
@[simp] theorem State.setFlag_finished (s : State) (pn : Port × Nat) : (s.setFlag pn).finished = s.finished := rfl
@[simp] theorem State.setFlag_admissionSeq (s : State) (pn : Port × Nat) : (s.setFlag pn).admissionSeq = s.admissionSeq :=
    rfl
@[simp] theorem State.setFlag_faults (s : State) (pn : Port × Nat) : (s.setFlag pn).faults = s.faults := rfl
@[simp] theorem State.setFlag_firstFault (s : State) (pn : Port × Nat) : (s.setFlag pn).firstFault = s.firstFault := rfl
@[simp] theorem State.setFlag_lines (s : State) (pn : Port × Nat) : (s.setFlag pn).lines = s.lines := rfl
@[simp] theorem State.setFlag_ram (s : State) (pn : Port × Nat) : (s.setFlag pn).ram = s.ram := rfl
@[simp] theorem State.setFlag_settingsValid (s : State) (pn : Port × Nat) : (s.setFlag pn).settingsValid = s.settingsValid :=
    rfl
@[simp] theorem State.setFlag_op (s : State) (pn : Port × Nat) : (s.setFlag pn).op = s.op := rfl
@[simp] theorem State.setFlag_bus (s : State) (pn : Port × Nat) : (s.setFlag pn).bus = s.bus := rfl
@[simp] theorem State.setFlag_lrstLow (s : State) (pn : Port × Nat) : (s.setFlag pn).lrstLow = s.lrstLow := rfl
@[simp] theorem State.setFlag_porstLow (s : State) (pn : Port × Nat) : (s.setFlag pn).porstLow = s.porstLow := rfl
@[simp] theorem State.setFlag_inputs (s : State) (pn : Port × Nat) : (s.setFlag pn).inputs = s.inputs := rfl
@[simp] theorem State.setFlag_pending (s : State) (pn : Port × Nat) : (s.setFlag pn).pending = s.pending := rfl

/-! ## raise -/

@[simp] theorem State.raise_rx (s : State) (e : Event) : (s.raise e).rx = s.rx := by cases e <;> rfl
@[simp] theorem State.raise_missed (s : State) (e : Event) : (s.raise e).missed = s.missed := by cases e <;> rfl
@[simp] theorem State.raise_bad (s : State) (e : Event) : (s.raise e).bad = s.bad := by cases e <;> rfl
@[simp] theorem State.raise_stray (s : State) (e : Event) : (s.raise e).stray = s.stray := by cases e <;> rfl
@[simp] theorem State.raise_intake (s : State) (e : Event) : (s.raise e).intake = s.intake := by cases e <;> rfl
@[simp] theorem State.raise_suspended (s : State) (e : Event) : (s.raise e).suspended = s.suspended :=
    by cases e <;> rfl
@[simp] theorem State.raise_resuming (s : State) (e : Event) : (s.raise e).resuming = s.resuming := by cases e <;> rfl
@[simp] theorem State.raise_retired (s : State) (e : Event) : (s.raise e).retired = s.retired := by cases e <;> rfl
@[simp] theorem State.raise_table (s : State) (e : Event) : (s.raise e).table = s.table := by cases e <;> rfl
@[simp] theorem State.raise_ahead (s : State) (e : Event) : (s.raise e).ahead = s.ahead := by cases e <;> rfl
@[simp] theorem State.raise_sheetCounter (s : State) (e : Event) : (s.raise e).sheetCounter = s.sheetCounter :=
    by cases e <;> rfl
@[simp] theorem State.raise_health (s : State) (e : Event) : (s.raise e).health = s.health := by cases e <;> rfl
@[simp] theorem State.raise_bins (s : State) (e : Event) : (s.raise e).bins = s.bins := by cases e <;> rfl
@[simp] theorem State.raise_queue (s : State) (e : Event) : (s.raise e).queue = s.queue := by cases e <;> rfl
@[simp] theorem State.raise_active (s : State) (e : Event) : (s.raise e).active = s.active := by cases e <;> rfl
@[simp] theorem State.raise_finished (s : State) (e : Event) : (s.raise e).finished = s.finished := by cases e <;> rfl
@[simp] theorem State.raise_admissionSeq (s : State) (e : Event) : (s.raise e).admissionSeq = s.admissionSeq :=
    by cases e <;> rfl
@[simp] theorem State.raise_faults (s : State) (e : Event) : (s.raise e).faults = s.faults := by cases e <;> rfl
@[simp] theorem State.raise_firstFault (s : State) (e : Event) : (s.raise e).firstFault = s.firstFault :=
    by cases e <;> rfl
@[simp] theorem State.raise_lines (s : State) (e : Event) : (s.raise e).lines = s.lines := by cases e <;> rfl
@[simp] theorem State.raise_ram (s : State) (e : Event) : (s.raise e).ram = s.ram := by cases e <;> rfl
@[simp] theorem State.raise_settingsValid (s : State) (e : Event) : (s.raise e).settingsValid = s.settingsValid :=
    by cases e <;> rfl
@[simp] theorem State.raise_op (s : State) (e : Event) : (s.raise e).op = s.op := by cases e <;> rfl
@[simp] theorem State.raise_bus (s : State) (e : Event) : (s.raise e).bus = s.bus := by cases e <;> rfl
@[simp] theorem State.raise_lrstLow (s : State) (e : Event) : (s.raise e).lrstLow = s.lrstLow := by cases e <;> rfl
@[simp] theorem State.raise_porstLow (s : State) (e : Event) : (s.raise e).porstLow = s.porstLow := by cases e <;> rfl
@[simp] theorem State.raise_inputs (s : State) (e : Event) : (s.raise e).inputs = s.inputs := by cases e <;> rfl
@[simp] theorem State.raise_pending (s : State) (e : Event) : (s.raise e).pending = s.pending := by cases e <;> rfl

/-! ## raiseIf -/

@[simp] theorem State.raiseIf_rx (s : State) (c : Bool) (e : Event) : (s.raiseIf c e).rx = s.rx :=
    by cases c <;> cases e <;> rfl
@[simp] theorem State.raiseIf_missed (s : State) (c : Bool) (e : Event) : (s.raiseIf c e).missed = s.missed :=
    by cases c <;> cases e <;> rfl
@[simp] theorem State.raiseIf_bad (s : State) (c : Bool) (e : Event) : (s.raiseIf c e).bad = s.bad :=
    by cases c <;> cases e <;> rfl
@[simp] theorem State.raiseIf_stray (s : State) (c : Bool) (e : Event) : (s.raiseIf c e).stray = s.stray :=
    by cases c <;> cases e <;> rfl
@[simp] theorem State.raiseIf_intake (s : State) (c : Bool) (e : Event) : (s.raiseIf c e).intake = s.intake :=
    by cases c <;> cases e <;> rfl
@[simp] theorem State.raiseIf_suspended (s : State) (c : Bool) (e : Event) : (s.raiseIf c e).suspended = s.suspended :=
    by cases c <;> cases e <;> rfl
@[simp] theorem State.raiseIf_resuming (s : State) (c : Bool) (e : Event) : (s.raiseIf c e).resuming = s.resuming :=
    by cases c <;> cases e <;> rfl
@[simp] theorem State.raiseIf_retired (s : State) (c : Bool) (e : Event) : (s.raiseIf c e).retired = s.retired :=
    by cases c <;> cases e <;> rfl
@[simp] theorem State.raiseIf_table (s : State) (c : Bool) (e : Event) : (s.raiseIf c e).table = s.table :=
    by cases c <;> cases e <;> rfl
@[simp] theorem State.raiseIf_ahead (s : State) (c : Bool) (e : Event) : (s.raiseIf c e).ahead = s.ahead :=
    by cases c <;> cases e <;> rfl
@[simp] theorem State.raiseIf_sheetCounter (s : State) (c : Bool) (e : Event) : (s.raiseIf c e).sheetCounter = s.sheetCounter :=
    by cases c <;> cases e <;> rfl
@[simp] theorem State.raiseIf_health (s : State) (c : Bool) (e : Event) : (s.raiseIf c e).health = s.health :=
    by cases c <;> cases e <;> rfl
@[simp] theorem State.raiseIf_bins (s : State) (c : Bool) (e : Event) : (s.raiseIf c e).bins = s.bins :=
    by cases c <;> cases e <;> rfl
@[simp] theorem State.raiseIf_queue (s : State) (c : Bool) (e : Event) : (s.raiseIf c e).queue = s.queue :=
    by cases c <;> cases e <;> rfl
@[simp] theorem State.raiseIf_active (s : State) (c : Bool) (e : Event) : (s.raiseIf c e).active = s.active :=
    by cases c <;> cases e <;> rfl
@[simp] theorem State.raiseIf_finished (s : State) (c : Bool) (e : Event) : (s.raiseIf c e).finished = s.finished :=
    by cases c <;> cases e <;> rfl
@[simp] theorem State.raiseIf_admissionSeq (s : State) (c : Bool) (e : Event) : (s.raiseIf c e).admissionSeq = s.admissionSeq :=
    by cases c <;> cases e <;> rfl
@[simp] theorem State.raiseIf_faults (s : State) (c : Bool) (e : Event) : (s.raiseIf c e).faults = s.faults :=
    by cases c <;> cases e <;> rfl
@[simp] theorem State.raiseIf_firstFault (s : State) (c : Bool) (e : Event) : (s.raiseIf c e).firstFault = s.firstFault :=
    by cases c <;> cases e <;> rfl
@[simp] theorem State.raiseIf_lines (s : State) (c : Bool) (e : Event) : (s.raiseIf c e).lines = s.lines :=
    by cases c <;> cases e <;> rfl
@[simp] theorem State.raiseIf_ram (s : State) (c : Bool) (e : Event) : (s.raiseIf c e).ram = s.ram :=
    by cases c <;> cases e <;> rfl
@[simp] theorem State.raiseIf_settingsValid (s : State) (c : Bool) (e : Event) : (s.raiseIf c e).settingsValid = s.settingsValid :=
    by cases c <;> cases e <;> rfl
@[simp] theorem State.raiseIf_op (s : State) (c : Bool) (e : Event) : (s.raiseIf c e).op = s.op :=
    by cases c <;> cases e <;> rfl
@[simp] theorem State.raiseIf_bus (s : State) (c : Bool) (e : Event) : (s.raiseIf c e).bus = s.bus :=
    by cases c <;> cases e <;> rfl
@[simp] theorem State.raiseIf_lrstLow (s : State) (c : Bool) (e : Event) : (s.raiseIf c e).lrstLow = s.lrstLow :=
    by cases c <;> cases e <;> rfl
@[simp] theorem State.raiseIf_porstLow (s : State) (c : Bool) (e : Event) : (s.raiseIf c e).porstLow = s.porstLow :=
    by cases c <;> cases e <;> rfl
@[simp] theorem State.raiseIf_inputs (s : State) (c : Bool) (e : Event) : (s.raiseIf c e).inputs = s.inputs :=
    by cases c <;> cases e <;> rfl
@[simp] theorem State.raiseIf_pending (s : State) (c : Bool) (e : Event) : (s.raiseIf c e).pending = s.pending :=
    by cases c <;> cases e <;> rfl

/-! ## reportFinish -/

@[simp] theorem State.reportFinish_rx (s : State) (n : Word) (f : Finish) : (s.reportFinish n f).rx = s.rx := rfl
@[simp] theorem State.reportFinish_missed (s : State) (n : Word) (f : Finish) : (s.reportFinish n f).missed = s.missed :=
    rfl
@[simp] theorem State.reportFinish_bad (s : State) (n : Word) (f : Finish) : (s.reportFinish n f).bad = s.bad := rfl
@[simp] theorem State.reportFinish_stray (s : State) (n : Word) (f : Finish) : (s.reportFinish n f).stray = s.stray :=
    rfl
@[simp] theorem State.reportFinish_intake (s : State) (n : Word) (f : Finish) : (s.reportFinish n f).intake = s.intake :=
    rfl
@[simp] theorem State.reportFinish_suspended (s : State) (n : Word) (f : Finish) : (s.reportFinish n f).suspended = s.suspended :=
    rfl
@[simp] theorem State.reportFinish_resuming (s : State) (n : Word) (f : Finish) : (s.reportFinish n f).resuming = s.resuming :=
    rfl
@[simp] theorem State.reportFinish_retired (s : State) (n : Word) (f : Finish) : (s.reportFinish n f).retired = s.retired :=
    rfl
@[simp] theorem State.reportFinish_table (s : State) (n : Word) (f : Finish) : (s.reportFinish n f).table = s.table :=
    rfl
@[simp] theorem State.reportFinish_ahead (s : State) (n : Word) (f : Finish) : (s.reportFinish n f).ahead = s.ahead :=
    rfl
@[simp] theorem State.reportFinish_sheetCounter (s : State) (n : Word) (f : Finish) : (s.reportFinish n f).sheetCounter = s.sheetCounter :=
    rfl
@[simp] theorem State.reportFinish_health (s : State) (n : Word) (f : Finish) : (s.reportFinish n f).health = s.health :=
    rfl
@[simp] theorem State.reportFinish_bins (s : State) (n : Word) (f : Finish) : (s.reportFinish n f).bins = s.bins := rfl
@[simp] theorem State.reportFinish_queue (s : State) (n : Word) (f : Finish) : (s.reportFinish n f).queue = s.queue :=
    rfl
@[simp] theorem State.reportFinish_active (s : State) (n : Word) (f : Finish) : (s.reportFinish n f).active = s.active :=
    rfl
@[simp] theorem State.reportFinish_admissionSeq (s : State) (n : Word) (f : Finish) : (s.reportFinish n f).admissionSeq = s.admissionSeq :=
    rfl
@[simp] theorem State.reportFinish_faults (s : State) (n : Word) (f : Finish) : (s.reportFinish n f).faults = s.faults :=
    rfl
@[simp] theorem State.reportFinish_firstFault (s : State) (n : Word) (f : Finish) : (s.reportFinish n f).firstFault = s.firstFault :=
    rfl
@[simp] theorem State.reportFinish_lines (s : State) (n : Word) (f : Finish) : (s.reportFinish n f).lines = s.lines :=
    rfl
@[simp] theorem State.reportFinish_ram (s : State) (n : Word) (f : Finish) : (s.reportFinish n f).ram = s.ram := rfl
@[simp] theorem State.reportFinish_settingsValid (s : State) (n : Word) (f : Finish) : (s.reportFinish n f).settingsValid = s.settingsValid :=
    rfl
@[simp] theorem State.reportFinish_op (s : State) (n : Word) (f : Finish) : (s.reportFinish n f).op = s.op := rfl
@[simp] theorem State.reportFinish_bus (s : State) (n : Word) (f : Finish) : (s.reportFinish n f).bus = s.bus := rfl
@[simp] theorem State.reportFinish_lrstLow (s : State) (n : Word) (f : Finish) : (s.reportFinish n f).lrstLow = s.lrstLow :=
    rfl
@[simp] theorem State.reportFinish_porstLow (s : State) (n : Word) (f : Finish) : (s.reportFinish n f).porstLow = s.porstLow :=
    rfl
@[simp] theorem State.reportFinish_inputs (s : State) (n : Word) (f : Finish) : (s.reportFinish n f).inputs = s.inputs :=
    rfl
@[simp] theorem State.reportFinish_pending (s : State) (n : Word) (f : Finish) : (s.reportFinish n f).pending = s.pending :=
    rfl

/-! ## leaveSlot -/

@[simp] theorem State.leaveSlot_rx (s : State) (a : Active) (f : Finish) : (s.leaveSlot a f).rx = s.rx := rfl
@[simp] theorem State.leaveSlot_missed (s : State) (a : Active) (f : Finish) : (s.leaveSlot a f).missed = s.missed :=
    rfl
@[simp] theorem State.leaveSlot_bad (s : State) (a : Active) (f : Finish) : (s.leaveSlot a f).bad = s.bad := rfl
@[simp] theorem State.leaveSlot_stray (s : State) (a : Active) (f : Finish) : (s.leaveSlot a f).stray = s.stray := rfl
@[simp] theorem State.leaveSlot_intake (s : State) (a : Active) (f : Finish) : (s.leaveSlot a f).intake = s.intake :=
    rfl
@[simp] theorem State.leaveSlot_suspended (s : State) (a : Active) (f : Finish) : (s.leaveSlot a f).suspended = s.suspended :=
    rfl
@[simp] theorem State.leaveSlot_resuming (s : State) (a : Active) (f : Finish) : (s.leaveSlot a f).resuming = s.resuming :=
    rfl
@[simp] theorem State.leaveSlot_retired (s : State) (a : Active) (f : Finish) : (s.leaveSlot a f).retired = s.retired :=
    rfl
@[simp] theorem State.leaveSlot_table (s : State) (a : Active) (f : Finish) : (s.leaveSlot a f).table = s.table := rfl
@[simp] theorem State.leaveSlot_ahead (s : State) (a : Active) (f : Finish) : (s.leaveSlot a f).ahead = s.ahead := rfl
@[simp] theorem State.leaveSlot_sheetCounter (s : State) (a : Active) (f : Finish) : (s.leaveSlot a f).sheetCounter = s.sheetCounter :=
    rfl
@[simp] theorem State.leaveSlot_health (s : State) (a : Active) (f : Finish) : (s.leaveSlot a f).health = s.health :=
    rfl
@[simp] theorem State.leaveSlot_bins (s : State) (a : Active) (f : Finish) : (s.leaveSlot a f).bins = s.bins := rfl
@[simp] theorem State.leaveSlot_queue (s : State) (a : Active) (f : Finish) : (s.leaveSlot a f).queue = s.queue := rfl
@[simp] theorem State.leaveSlot_admissionSeq (s : State) (a : Active) (f : Finish) : (s.leaveSlot a f).admissionSeq = s.admissionSeq :=
    rfl
@[simp] theorem State.leaveSlot_faults (s : State) (a : Active) (f : Finish) : (s.leaveSlot a f).faults = s.faults :=
    rfl
@[simp] theorem State.leaveSlot_firstFault (s : State) (a : Active) (f : Finish) : (s.leaveSlot a f).firstFault = s.firstFault :=
    rfl
@[simp] theorem State.leaveSlot_lines (s : State) (a : Active) (f : Finish) : (s.leaveSlot a f).lines = s.lines := rfl
@[simp] theorem State.leaveSlot_ram (s : State) (a : Active) (f : Finish) : (s.leaveSlot a f).ram = s.ram := rfl
@[simp] theorem State.leaveSlot_settingsValid (s : State) (a : Active) (f : Finish) : (s.leaveSlot a f).settingsValid = s.settingsValid :=
    rfl
@[simp] theorem State.leaveSlot_op (s : State) (a : Active) (f : Finish) : (s.leaveSlot a f).op = s.op := rfl
@[simp] theorem State.leaveSlot_bus (s : State) (a : Active) (f : Finish) : (s.leaveSlot a f).bus = s.bus := rfl
@[simp] theorem State.leaveSlot_lrstLow (s : State) (a : Active) (f : Finish) : (s.leaveSlot a f).lrstLow = s.lrstLow :=
    rfl
@[simp] theorem State.leaveSlot_porstLow (s : State) (a : Active) (f : Finish) : (s.leaveSlot a f).porstLow = s.porstLow :=
    rfl
@[simp] theorem State.leaveSlot_inputs (s : State) (a : Active) (f : Finish) : (s.leaveSlot a f).inputs = s.inputs :=
    rfl
@[simp] theorem State.leaveSlot_pending (s : State) (a : Active) (f : Finish) : (s.leaveSlot a f).pending = s.pending :=
    rfl

/-! ## acceptFrame -/

@[simp] theorem State.acceptFrame_rx (s : State) (p : Port) : (s.acceptFrame p).rx = s.rx := rfl
@[simp] theorem State.acceptFrame_missed (s : State) (p : Port) : (s.acceptFrame p).missed = s.missed := rfl
@[simp] theorem State.acceptFrame_bad (s : State) (p : Port) : (s.acceptFrame p).bad = s.bad := rfl
@[simp] theorem State.acceptFrame_stray (s : State) (p : Port) : (s.acceptFrame p).stray = s.stray := rfl
@[simp] theorem State.acceptFrame_intake (s : State) (p : Port) : (s.acceptFrame p).intake = s.intake := rfl
@[simp] theorem State.acceptFrame_suspended (s : State) (p : Port) : (s.acceptFrame p).suspended = s.suspended := rfl
@[simp] theorem State.acceptFrame_resuming (s : State) (p : Port) : (s.acceptFrame p).resuming = s.resuming := rfl
@[simp] theorem State.acceptFrame_retired (s : State) (p : Port) : (s.acceptFrame p).retired = s.retired := rfl
@[simp] theorem State.acceptFrame_table (s : State) (p : Port) : (s.acceptFrame p).table = s.table := rfl
@[simp] theorem State.acceptFrame_ahead (s : State) (p : Port) : (s.acceptFrame p).ahead = s.ahead := rfl
@[simp] theorem State.acceptFrame_sheetCounter (s : State) (p : Port) : (s.acceptFrame p).sheetCounter = s.sheetCounter :=
    rfl
@[simp] theorem State.acceptFrame_health (s : State) (p : Port) : (s.acceptFrame p).health = s.health := rfl
@[simp] theorem State.acceptFrame_bins (s : State) (p : Port) : (s.acceptFrame p).bins = s.bins := rfl
@[simp] theorem State.acceptFrame_queue (s : State) (p : Port) : (s.acceptFrame p).queue = s.queue := rfl
@[simp] theorem State.acceptFrame_active (s : State) (p : Port) : (s.acceptFrame p).active = s.active := rfl
@[simp] theorem State.acceptFrame_finished (s : State) (p : Port) : (s.acceptFrame p).finished = s.finished := rfl
@[simp] theorem State.acceptFrame_admissionSeq (s : State) (p : Port) : (s.acceptFrame p).admissionSeq = s.admissionSeq :=
    rfl
@[simp] theorem State.acceptFrame_faults (s : State) (p : Port) : (s.acceptFrame p).faults = s.faults := rfl
@[simp] theorem State.acceptFrame_firstFault (s : State) (p : Port) : (s.acceptFrame p).firstFault = s.firstFault := rfl
@[simp] theorem State.acceptFrame_lines (s : State) (p : Port) : (s.acceptFrame p).lines = s.lines := rfl
@[simp] theorem State.acceptFrame_ram (s : State) (p : Port) : (s.acceptFrame p).ram = s.ram := rfl
@[simp] theorem State.acceptFrame_settingsValid (s : State) (p : Port) : (s.acceptFrame p).settingsValid = s.settingsValid :=
    rfl
@[simp] theorem State.acceptFrame_op (s : State) (p : Port) : (s.acceptFrame p).op = s.op := rfl
@[simp] theorem State.acceptFrame_bus (s : State) (p : Port) : (s.acceptFrame p).bus = s.bus := rfl
@[simp] theorem State.acceptFrame_lrstLow (s : State) (p : Port) : (s.acceptFrame p).lrstLow = s.lrstLow := rfl
@[simp] theorem State.acceptFrame_porstLow (s : State) (p : Port) : (s.acceptFrame p).porstLow = s.porstLow := rfl
@[simp] theorem State.acceptFrame_inputs (s : State) (p : Port) : (s.acceptFrame p).inputs = s.inputs := rfl
@[simp] theorem State.acceptFrame_pending (s : State) (p : Port) : (s.acceptFrame p).pending = s.pending := rfl

/-! ## placeAnswer -/

@[simp] theorem State.placeAnswer_rx (s : State) (p : Port) (tag : Byte) (r : Reply) : (s.placeAnswer p tag r).rx = s.rx :=
    rfl
@[simp] theorem State.placeAnswer_missed (s : State) (p : Port) (tag : Byte) (r : Reply) : (s.placeAnswer p tag r).missed = s.missed :=
    rfl
@[simp] theorem State.placeAnswer_bad (s : State) (p : Port) (tag : Byte) (r : Reply) : (s.placeAnswer p tag r).bad = s.bad :=
    rfl
@[simp] theorem State.placeAnswer_stray (s : State) (p : Port) (tag : Byte) (r : Reply) : (s.placeAnswer p tag r).stray = s.stray :=
    rfl
@[simp] theorem State.placeAnswer_intake (s : State) (p : Port) (tag : Byte) (r : Reply) : (s.placeAnswer p tag r).intake = s.intake :=
    rfl
@[simp] theorem State.placeAnswer_suspended (s : State) (p : Port) (tag : Byte) (r : Reply) : (s.placeAnswer p tag r).suspended = s.suspended :=
    rfl
@[simp] theorem State.placeAnswer_resuming (s : State) (p : Port) (tag : Byte) (r : Reply) : (s.placeAnswer p tag r).resuming = s.resuming :=
    rfl
@[simp] theorem State.placeAnswer_retired (s : State) (p : Port) (tag : Byte) (r : Reply) : (s.placeAnswer p tag r).retired = s.retired :=
    rfl
@[simp] theorem State.placeAnswer_table (s : State) (p : Port) (tag : Byte) (r : Reply) : (s.placeAnswer p tag r).table = s.table :=
    rfl
@[simp] theorem State.placeAnswer_ahead (s : State) (p : Port) (tag : Byte) (r : Reply) : (s.placeAnswer p tag r).ahead = s.ahead :=
    rfl
@[simp] theorem State.placeAnswer_sheetCounter (s : State) (p : Port) (tag : Byte) (r : Reply) : (s.placeAnswer p tag r).sheetCounter = s.sheetCounter :=
    rfl
@[simp] theorem State.placeAnswer_health (s : State) (p : Port) (tag : Byte) (r : Reply) : (s.placeAnswer p tag r).health = s.health :=
    rfl
@[simp] theorem State.placeAnswer_bins (s : State) (p : Port) (tag : Byte) (r : Reply) : (s.placeAnswer p tag r).bins = s.bins :=
    rfl
@[simp] theorem State.placeAnswer_queue (s : State) (p : Port) (tag : Byte) (r : Reply) : (s.placeAnswer p tag r).queue = s.queue :=
    rfl
@[simp] theorem State.placeAnswer_active (s : State) (p : Port) (tag : Byte) (r : Reply) : (s.placeAnswer p tag r).active = s.active :=
    rfl
@[simp] theorem State.placeAnswer_finished (s : State) (p : Port) (tag : Byte) (r : Reply) : (s.placeAnswer p tag r).finished = s.finished :=
    rfl
@[simp] theorem State.placeAnswer_admissionSeq (s : State) (p : Port) (tag : Byte) (r : Reply) : (s.placeAnswer p tag r).admissionSeq = s.admissionSeq :=
    rfl
@[simp] theorem State.placeAnswer_faults (s : State) (p : Port) (tag : Byte) (r : Reply) : (s.placeAnswer p tag r).faults = s.faults :=
    rfl
@[simp] theorem State.placeAnswer_firstFault (s : State) (p : Port) (tag : Byte) (r : Reply) : (s.placeAnswer p tag r).firstFault = s.firstFault :=
    rfl
@[simp] theorem State.placeAnswer_lines (s : State) (p : Port) (tag : Byte) (r : Reply) : (s.placeAnswer p tag r).lines = s.lines :=
    rfl
@[simp] theorem State.placeAnswer_ram (s : State) (p : Port) (tag : Byte) (r : Reply) : (s.placeAnswer p tag r).ram = s.ram :=
    rfl
@[simp] theorem State.placeAnswer_settingsValid (s : State) (p : Port) (tag : Byte) (r : Reply) : (s.placeAnswer p tag r).settingsValid = s.settingsValid :=
    rfl
@[simp] theorem State.placeAnswer_op (s : State) (p : Port) (tag : Byte) (r : Reply) : (s.placeAnswer p tag r).op = s.op :=
    rfl
@[simp] theorem State.placeAnswer_bus (s : State) (p : Port) (tag : Byte) (r : Reply) : (s.placeAnswer p tag r).bus = s.bus :=
    rfl
@[simp] theorem State.placeAnswer_lrstLow (s : State) (p : Port) (tag : Byte) (r : Reply) : (s.placeAnswer p tag r).lrstLow = s.lrstLow :=
    rfl
@[simp] theorem State.placeAnswer_porstLow (s : State) (p : Port) (tag : Byte) (r : Reply) : (s.placeAnswer p tag r).porstLow = s.porstLow :=
    rfl
@[simp] theorem State.placeAnswer_inputs (s : State) (p : Port) (tag : Byte) (r : Reply) : (s.placeAnswer p tag r).inputs = s.inputs :=
    rfl
@[simp] theorem State.placeAnswer_pending (s : State) (p : Port) (tag : Byte) (r : Reply) : (s.placeAnswer p tag r).pending = s.pending :=
    rfl

/-! ## rejectFrame -/

@[simp] theorem State.rejectFrame_rx (s : State) (p : Port) (w : Window) (k : FrameError) : (s.rejectFrame p w k).rx = s.rx :=
    rfl
@[simp] theorem State.rejectFrame_missed (s : State) (p : Port) (w : Window) (k : FrameError) : (s.rejectFrame p w k).missed = s.missed :=
    rfl
@[simp] theorem State.rejectFrame_bad (s : State) (p : Port) (w : Window) (k : FrameError) : (s.rejectFrame p w k).bad = s.bad :=
    rfl
@[simp] theorem State.rejectFrame_stray (s : State) (p : Port) (w : Window) (k : FrameError) : (s.rejectFrame p w k).stray = s.stray :=
    rfl
@[simp] theorem State.rejectFrame_intake (s : State) (p : Port) (w : Window) (k : FrameError) : (s.rejectFrame p w k).intake = s.intake :=
    rfl
@[simp] theorem State.rejectFrame_suspended (s : State) (p : Port) (w : Window) (k : FrameError) : (s.rejectFrame p w k).suspended = s.suspended :=
    rfl
@[simp] theorem State.rejectFrame_resuming (s : State) (p : Port) (w : Window) (k : FrameError) : (s.rejectFrame p w k).resuming = s.resuming :=
    rfl
@[simp] theorem State.rejectFrame_retired (s : State) (p : Port) (w : Window) (k : FrameError) : (s.rejectFrame p w k).retired = s.retired :=
    rfl
@[simp] theorem State.rejectFrame_table (s : State) (p : Port) (w : Window) (k : FrameError) : (s.rejectFrame p w k).table = s.table :=
    rfl
@[simp] theorem State.rejectFrame_ahead (s : State) (p : Port) (w : Window) (k : FrameError) : (s.rejectFrame p w k).ahead = s.ahead :=
    rfl
@[simp] theorem State.rejectFrame_sheetCounter (s : State) (p : Port) (w : Window) (k : FrameError) : (s.rejectFrame p w k).sheetCounter = s.sheetCounter :=
    rfl
@[simp] theorem State.rejectFrame_health (s : State) (p : Port) (w : Window) (k : FrameError) : (s.rejectFrame p w k).health = s.health :=
    rfl
@[simp] theorem State.rejectFrame_bins (s : State) (p : Port) (w : Window) (k : FrameError) : (s.rejectFrame p w k).bins = s.bins :=
    rfl
@[simp] theorem State.rejectFrame_queue (s : State) (p : Port) (w : Window) (k : FrameError) : (s.rejectFrame p w k).queue = s.queue :=
    rfl
@[simp] theorem State.rejectFrame_active (s : State) (p : Port) (w : Window) (k : FrameError) : (s.rejectFrame p w k).active = s.active :=
    rfl
@[simp] theorem State.rejectFrame_finished (s : State) (p : Port) (w : Window) (k : FrameError) : (s.rejectFrame p w k).finished = s.finished :=
    rfl
@[simp] theorem State.rejectFrame_admissionSeq (s : State) (p : Port) (w : Window) (k : FrameError) : (s.rejectFrame p w k).admissionSeq = s.admissionSeq :=
    rfl
@[simp] theorem State.rejectFrame_faults (s : State) (p : Port) (w : Window) (k : FrameError) : (s.rejectFrame p w k).faults = s.faults :=
    rfl
@[simp] theorem State.rejectFrame_firstFault (s : State) (p : Port) (w : Window) (k : FrameError) : (s.rejectFrame p w k).firstFault = s.firstFault :=
    rfl
@[simp] theorem State.rejectFrame_lines (s : State) (p : Port) (w : Window) (k : FrameError) : (s.rejectFrame p w k).lines = s.lines :=
    rfl
@[simp] theorem State.rejectFrame_ram (s : State) (p : Port) (w : Window) (k : FrameError) : (s.rejectFrame p w k).ram = s.ram :=
    rfl
@[simp] theorem State.rejectFrame_settingsValid (s : State) (p : Port) (w : Window) (k : FrameError) : (s.rejectFrame p w k).settingsValid = s.settingsValid :=
    rfl
@[simp] theorem State.rejectFrame_op (s : State) (p : Port) (w : Window) (k : FrameError) : (s.rejectFrame p w k).op = s.op :=
    rfl
@[simp] theorem State.rejectFrame_bus (s : State) (p : Port) (w : Window) (k : FrameError) : (s.rejectFrame p w k).bus = s.bus :=
    rfl
@[simp] theorem State.rejectFrame_lrstLow (s : State) (p : Port) (w : Window) (k : FrameError) : (s.rejectFrame p w k).lrstLow = s.lrstLow :=
    rfl
@[simp] theorem State.rejectFrame_porstLow (s : State) (p : Port) (w : Window) (k : FrameError) : (s.rejectFrame p w k).porstLow = s.porstLow :=
    rfl
@[simp] theorem State.rejectFrame_inputs (s : State) (p : Port) (w : Window) (k : FrameError) : (s.rejectFrame p w k).inputs = s.inputs :=
    rfl
@[simp] theorem State.rejectFrame_pending (s : State) (p : Port) (w : Window) (k : FrameError) : (s.rejectFrame p w k).pending = s.pending :=
    rfl

/-! ## enqueue -/

@[simp] theorem State.enqueue_rx (s : State) (c : Instr) : (s.enqueue c).rx = s.rx := rfl
@[simp] theorem State.enqueue_missed (s : State) (c : Instr) : (s.enqueue c).missed = s.missed := rfl
@[simp] theorem State.enqueue_bad (s : State) (c : Instr) : (s.enqueue c).bad = s.bad := rfl
@[simp] theorem State.enqueue_stray (s : State) (c : Instr) : (s.enqueue c).stray = s.stray := rfl
@[simp] theorem State.enqueue_intake (s : State) (c : Instr) : (s.enqueue c).intake = s.intake := rfl
@[simp] theorem State.enqueue_suspended (s : State) (c : Instr) : (s.enqueue c).suspended = s.suspended := rfl
@[simp] theorem State.enqueue_resuming (s : State) (c : Instr) : (s.enqueue c).resuming = s.resuming := rfl
@[simp] theorem State.enqueue_retired (s : State) (c : Instr) : (s.enqueue c).retired = s.retired := rfl
@[simp] theorem State.enqueue_table (s : State) (c : Instr) : (s.enqueue c).table = s.table := rfl
@[simp] theorem State.enqueue_ahead (s : State) (c : Instr) : (s.enqueue c).ahead = s.ahead := rfl
@[simp] theorem State.enqueue_sheetCounter (s : State) (c : Instr) : (s.enqueue c).sheetCounter = s.sheetCounter := rfl
@[simp] theorem State.enqueue_health (s : State) (c : Instr) : (s.enqueue c).health = s.health := rfl
@[simp] theorem State.enqueue_bins (s : State) (c : Instr) : (s.enqueue c).bins = s.bins := rfl
@[simp] theorem State.enqueue_queue (s : State) (c : Instr) : (s.enqueue c).queue = s.queue := rfl
@[simp] theorem State.enqueue_active (s : State) (c : Instr) : (s.enqueue c).active = s.active := rfl
@[simp] theorem State.enqueue_finished (s : State) (c : Instr) : (s.enqueue c).finished = s.finished := rfl
@[simp] theorem State.enqueue_admissionSeq (s : State) (c : Instr) : (s.enqueue c).admissionSeq = s.admissionSeq := rfl
@[simp] theorem State.enqueue_ports (s : State) (c : Instr) : (s.enqueue c).ports = s.ports := rfl
@[simp] theorem State.enqueue_faults (s : State) (c : Instr) : (s.enqueue c).faults = s.faults := rfl
@[simp] theorem State.enqueue_firstFault (s : State) (c : Instr) : (s.enqueue c).firstFault = s.firstFault := rfl
@[simp] theorem State.enqueue_lines (s : State) (c : Instr) : (s.enqueue c).lines = s.lines := rfl
@[simp] theorem State.enqueue_ram (s : State) (c : Instr) : (s.enqueue c).ram = s.ram := rfl
@[simp] theorem State.enqueue_settingsValid (s : State) (c : Instr) : (s.enqueue c).settingsValid = s.settingsValid :=
    rfl
@[simp] theorem State.enqueue_op (s : State) (c : Instr) : (s.enqueue c).op = s.op := rfl
@[simp] theorem State.enqueue_bus (s : State) (c : Instr) : (s.enqueue c).bus = s.bus := rfl
@[simp] theorem State.enqueue_lrstLow (s : State) (c : Instr) : (s.enqueue c).lrstLow = s.lrstLow := rfl
@[simp] theorem State.enqueue_porstLow (s : State) (c : Instr) : (s.enqueue c).porstLow = s.porstLow := rfl
@[simp] theorem State.enqueue_inputs (s : State) (c : Instr) : (s.enqueue c).inputs = s.inputs := rfl

/-! ## lineReset -/

@[simp] theorem State.lineReset_rx (s : State)  : (s.lineReset).rx = s.rx := rfl
@[simp] theorem State.lineReset_missed (s : State)  : (s.lineReset).missed = s.missed := rfl
@[simp] theorem State.lineReset_bad (s : State)  : (s.lineReset).bad = s.bad := rfl
@[simp] theorem State.lineReset_stray (s : State)  : (s.lineReset).stray = s.stray := rfl
@[simp] theorem State.lineReset_sheetCounter (s : State)  : (s.lineReset).sheetCounter = s.sheetCounter := rfl
@[simp] theorem State.lineReset_admissionSeq (s : State)  : (s.lineReset).admissionSeq = s.admissionSeq := rfl
@[simp] theorem State.lineReset_faults (s : State)  : (s.lineReset).faults = s.faults := rfl
@[simp] theorem State.lineReset_firstFault (s : State)  : (s.lineReset).firstFault = s.firstFault := rfl
@[simp] theorem State.lineReset_ram (s : State)  : (s.lineReset).ram = s.ram := rfl
@[simp] theorem State.lineReset_settingsValid (s : State)  : (s.lineReset).settingsValid = s.settingsValid := rfl
@[simp] theorem State.lineReset_op (s : State)  : (s.lineReset).op = s.op := rfl
@[simp] theorem State.lineReset_bus (s : State)  : (s.lineReset).bus = s.bus := rfl
@[simp] theorem State.lineReset_lrstLow (s : State)  : (s.lineReset).lrstLow = s.lrstLow := rfl
@[simp] theorem State.lineReset_porstLow (s : State)  : (s.lineReset).porstLow = s.porstLow := rfl
@[simp] theorem State.lineReset_inputs (s : State)  : (s.lineReset).inputs = s.inputs := rfl
@[simp] theorem State.lineReset_pending (s : State)  : (s.lineReset).pending = s.pending := rfl

/-! ## install -/

@[simp] theorem State.install_rx (s : State) (r : Settings) : (s.install r).rx = s.rx := rfl
@[simp] theorem State.install_missed (s : State) (r : Settings) : (s.install r).missed = s.missed := rfl
@[simp] theorem State.install_bad (s : State) (r : Settings) : (s.install r).bad = s.bad := rfl
@[simp] theorem State.install_stray (s : State) (r : Settings) : (s.install r).stray = s.stray := rfl
@[simp] theorem State.install_intake (s : State) (r : Settings) : (s.install r).intake = s.intake := rfl
@[simp] theorem State.install_suspended (s : State) (r : Settings) : (s.install r).suspended = s.suspended := rfl
@[simp] theorem State.install_resuming (s : State) (r : Settings) : (s.install r).resuming = s.resuming := rfl
@[simp] theorem State.install_retired (s : State) (r : Settings) : (s.install r).retired = s.retired := rfl
@[simp] theorem State.install_table (s : State) (r : Settings) : (s.install r).table = s.table := rfl
@[simp] theorem State.install_ahead (s : State) (r : Settings) : (s.install r).ahead = s.ahead := rfl
@[simp] theorem State.install_sheetCounter (s : State) (r : Settings) : (s.install r).sheetCounter = s.sheetCounter :=
    rfl
@[simp] theorem State.install_health (s : State) (r : Settings) : (s.install r).health = s.health := rfl
@[simp] theorem State.install_queue (s : State) (r : Settings) : (s.install r).queue = s.queue := rfl
@[simp] theorem State.install_active (s : State) (r : Settings) : (s.install r).active = s.active := rfl
@[simp] theorem State.install_finished (s : State) (r : Settings) : (s.install r).finished = s.finished := rfl
@[simp] theorem State.install_admissionSeq (s : State) (r : Settings) : (s.install r).admissionSeq = s.admissionSeq :=
    rfl
@[simp] theorem State.install_ports (s : State) (r : Settings) : (s.install r).ports = s.ports := rfl
@[simp] theorem State.install_faults (s : State) (r : Settings) : (s.install r).faults = s.faults := rfl
@[simp] theorem State.install_firstFault (s : State) (r : Settings) : (s.install r).firstFault = s.firstFault := rfl
@[simp] theorem State.install_settingsValid (s : State) (r : Settings) : (s.install r).settingsValid = s.settingsValid :=
    rfl
@[simp] theorem State.install_op (s : State) (r : Settings) : (s.install r).op = s.op := rfl
@[simp] theorem State.install_bus (s : State) (r : Settings) : (s.install r).bus = s.bus := rfl
@[simp] theorem State.install_lrstLow (s : State) (r : Settings) : (s.install r).lrstLow = s.lrstLow := rfl
@[simp] theorem State.install_porstLow (s : State) (r : Settings) : (s.install r).porstLow = s.porstLow := rfl
@[simp] theorem State.install_inputs (s : State) (r : Settings) : (s.install r).inputs = s.inputs := rfl
@[simp] theorem State.install_pending (s : State) (r : Settings) : (s.install r).pending = s.pending := rfl

/-! ## announce -/

@[simp] theorem State.announce_rx (s t : State) : (s.announce t).rx = t.rx := by
  simp [State.announce]
@[simp] theorem State.announce_missed (s t : State) : (s.announce t).missed = t.missed := by
  simp [State.announce]
@[simp] theorem State.announce_bad (s t : State) : (s.announce t).bad = t.bad := by
  simp [State.announce]
@[simp] theorem State.announce_stray (s t : State) : (s.announce t).stray = t.stray := by
  simp [State.announce]
@[simp] theorem State.announce_intake (s t : State) : (s.announce t).intake = t.intake := by
  simp [State.announce]
@[simp] theorem State.announce_suspended (s t : State) : (s.announce t).suspended = t.suspended := by
  simp [State.announce]
@[simp] theorem State.announce_resuming (s t : State) : (s.announce t).resuming = t.resuming := by
  simp [State.announce]
@[simp] theorem State.announce_retired (s t : State) : (s.announce t).retired = t.retired := by
  simp [State.announce]
@[simp] theorem State.announce_table (s t : State) : (s.announce t).table = t.table := by
  simp [State.announce]
@[simp] theorem State.announce_ahead (s t : State) : (s.announce t).ahead = t.ahead := by
  simp [State.announce]
@[simp] theorem State.announce_sheetCounter (s t : State) : (s.announce t).sheetCounter = t.sheetCounter := by
  simp [State.announce]
@[simp] theorem State.announce_health (s t : State) : (s.announce t).health = t.health := by
  simp [State.announce]
@[simp] theorem State.announce_bins (s t : State) : (s.announce t).bins = t.bins := by
  simp [State.announce]
@[simp] theorem State.announce_queue (s t : State) : (s.announce t).queue = t.queue := by
  simp [State.announce]
@[simp] theorem State.announce_active (s t : State) : (s.announce t).active = t.active := by
  simp [State.announce]
@[simp] theorem State.announce_finished (s t : State) : (s.announce t).finished = t.finished := by
  simp [State.announce]
@[simp] theorem State.announce_admissionSeq (s t : State) : (s.announce t).admissionSeq = t.admissionSeq := by
  simp [State.announce]
@[simp] theorem State.announce_faults (s t : State) : (s.announce t).faults = t.faults := by
  simp [State.announce]
@[simp] theorem State.announce_firstFault (s t : State) : (s.announce t).firstFault = t.firstFault := by
  simp [State.announce]
@[simp] theorem State.announce_lines (s t : State) : (s.announce t).lines = t.lines := by
  simp [State.announce]
@[simp] theorem State.announce_ram (s t : State) : (s.announce t).ram = t.ram := by
  simp [State.announce]
@[simp] theorem State.announce_settingsValid (s t : State) : (s.announce t).settingsValid = t.settingsValid := by
  simp [State.announce]
@[simp] theorem State.announce_op (s t : State) : (s.announce t).op = t.op := by
  simp [State.announce]
@[simp] theorem State.announce_bus (s t : State) : (s.announce t).bus = t.bus := by
  simp [State.announce]
@[simp] theorem State.announce_lrstLow (s t : State) : (s.announce t).lrstLow = t.lrstLow := by
  simp [State.announce]
@[simp] theorem State.announce_porstLow (s t : State) : (s.announce t).porstLow = t.porstLow := by
  simp [State.announce]
@[simp] theorem State.announce_inputs (s t : State) : (s.announce t).inputs = t.inputs := by
  simp [State.announce]
@[simp] theorem State.announce_pending (s t : State) : (s.announce t).pending = t.pending := by
  simp [State.announce]

/-! ## settleFirstFault -/

@[simp] theorem State.settleFirstFault_rx (s : State) : (s.settleFirstFault).rx = s.rx := by
  unfold State.settleFirstFault; split <;> rfl
@[simp] theorem State.settleFirstFault_missed (s : State) : (s.settleFirstFault).missed = s.missed := by
  unfold State.settleFirstFault; split <;> rfl
@[simp] theorem State.settleFirstFault_bad (s : State) : (s.settleFirstFault).bad = s.bad := by
  unfold State.settleFirstFault; split <;> rfl
@[simp] theorem State.settleFirstFault_stray (s : State) : (s.settleFirstFault).stray = s.stray := by
  unfold State.settleFirstFault; split <;> rfl
@[simp] theorem State.settleFirstFault_intake (s : State) : (s.settleFirstFault).intake = s.intake := by
  unfold State.settleFirstFault; split <;> rfl
@[simp] theorem State.settleFirstFault_suspended (s : State) : (s.settleFirstFault).suspended = s.suspended := by
  unfold State.settleFirstFault; split <;> rfl
@[simp] theorem State.settleFirstFault_resuming (s : State) : (s.settleFirstFault).resuming = s.resuming := by
  unfold State.settleFirstFault; split <;> rfl
@[simp] theorem State.settleFirstFault_retired (s : State) : (s.settleFirstFault).retired = s.retired := by
  unfold State.settleFirstFault; split <;> rfl
@[simp] theorem State.settleFirstFault_table (s : State) : (s.settleFirstFault).table = s.table := by
  unfold State.settleFirstFault; split <;> rfl
@[simp] theorem State.settleFirstFault_ahead (s : State) : (s.settleFirstFault).ahead = s.ahead := by
  unfold State.settleFirstFault; split <;> rfl
@[simp] theorem State.settleFirstFault_sheetCounter (s : State) : (s.settleFirstFault).sheetCounter = s.sheetCounter := by
  unfold State.settleFirstFault; split <;> rfl
@[simp] theorem State.settleFirstFault_health (s : State) : (s.settleFirstFault).health = s.health := by
  unfold State.settleFirstFault; split <;> rfl
@[simp] theorem State.settleFirstFault_bins (s : State) : (s.settleFirstFault).bins = s.bins := by
  unfold State.settleFirstFault; split <;> rfl
@[simp] theorem State.settleFirstFault_queue (s : State) : (s.settleFirstFault).queue = s.queue := by
  unfold State.settleFirstFault; split <;> rfl
@[simp] theorem State.settleFirstFault_active (s : State) : (s.settleFirstFault).active = s.active := by
  unfold State.settleFirstFault; split <;> rfl
@[simp] theorem State.settleFirstFault_finished (s : State) : (s.settleFirstFault).finished = s.finished := by
  unfold State.settleFirstFault; split <;> rfl
@[simp] theorem State.settleFirstFault_admissionSeq (s : State) : (s.settleFirstFault).admissionSeq = s.admissionSeq := by
  unfold State.settleFirstFault; split <;> rfl
@[simp] theorem State.settleFirstFault_ports (s : State) : (s.settleFirstFault).ports = s.ports := by
  unfold State.settleFirstFault; split <;> rfl
@[simp] theorem State.settleFirstFault_faults (s : State) : (s.settleFirstFault).faults = s.faults := by
  unfold State.settleFirstFault; split <;> rfl
@[simp] theorem State.settleFirstFault_lines (s : State) : (s.settleFirstFault).lines = s.lines := by
  unfold State.settleFirstFault; split <;> rfl
@[simp] theorem State.settleFirstFault_ram (s : State) : (s.settleFirstFault).ram = s.ram := by
  unfold State.settleFirstFault; split <;> rfl
@[simp] theorem State.settleFirstFault_settingsValid (s : State) : (s.settleFirstFault).settingsValid = s.settingsValid := by
  unfold State.settleFirstFault; split <;> rfl
@[simp] theorem State.settleFirstFault_op (s : State) : (s.settleFirstFault).op = s.op := by
  unfold State.settleFirstFault; split <;> rfl
@[simp] theorem State.settleFirstFault_bus (s : State) : (s.settleFirstFault).bus = s.bus := by
  unfold State.settleFirstFault; split <;> rfl
@[simp] theorem State.settleFirstFault_lrstLow (s : State) : (s.settleFirstFault).lrstLow = s.lrstLow := by
  unfold State.settleFirstFault; split <;> rfl
@[simp] theorem State.settleFirstFault_porstLow (s : State) : (s.settleFirstFault).porstLow = s.porstLow := by
  unfold State.settleFirstFault; split <;> rfl
@[simp] theorem State.settleFirstFault_inputs (s : State) : (s.settleFirstFault).inputs = s.inputs := by
  unfold State.settleFirstFault; split <;> rfl
@[simp] theorem State.settleFirstFault_pending (s : State) : (s.settleFirstFault).pending = s.pending := by
  unfold State.settleFirstFault; split <;> rfl

/-! ## faultOccurs -/

@[simp] theorem State.faultOccurs_rx (s : State) (k : FaultKind) : (s.faultOccurs k).rx = s.rx := by
  unfold State.faultOccurs; dsimp only; split <;> simp
@[simp] theorem State.faultOccurs_missed (s : State) (k : FaultKind) : (s.faultOccurs k).missed = s.missed := by
  unfold State.faultOccurs; dsimp only; split <;> simp
@[simp] theorem State.faultOccurs_bad (s : State) (k : FaultKind) : (s.faultOccurs k).bad = s.bad := by
  unfold State.faultOccurs; dsimp only; split <;> simp
@[simp] theorem State.faultOccurs_stray (s : State) (k : FaultKind) : (s.faultOccurs k).stray = s.stray := by
  unfold State.faultOccurs; dsimp only; split <;> simp
@[simp] theorem State.faultOccurs_intake (s : State) (k : FaultKind) : (s.faultOccurs k).intake = s.intake := by
  unfold State.faultOccurs; dsimp only; split <;> simp
@[simp] theorem State.faultOccurs_suspended (s : State) (k : FaultKind) : (s.faultOccurs k).suspended = s.suspended := by
  unfold State.faultOccurs; dsimp only; split <;> simp
@[simp] theorem State.faultOccurs_resuming (s : State) (k : FaultKind) : (s.faultOccurs k).resuming = s.resuming := by
  unfold State.faultOccurs; dsimp only; split <;> simp
@[simp] theorem State.faultOccurs_retired (s : State) (k : FaultKind) : (s.faultOccurs k).retired = s.retired := by
  unfold State.faultOccurs; dsimp only; split <;> simp
@[simp] theorem State.faultOccurs_table (s : State) (k : FaultKind) : (s.faultOccurs k).table = s.table := by
  unfold State.faultOccurs; dsimp only; split <;> simp
@[simp] theorem State.faultOccurs_ahead (s : State) (k : FaultKind) : (s.faultOccurs k).ahead = s.ahead := by
  unfold State.faultOccurs; dsimp only; split <;> simp
@[simp] theorem State.faultOccurs_sheetCounter (s : State) (k : FaultKind) : (s.faultOccurs k).sheetCounter = s.sheetCounter := by
  unfold State.faultOccurs; dsimp only; split <;> simp
@[simp] theorem State.faultOccurs_health (s : State) (k : FaultKind) : (s.faultOccurs k).health = s.health := by
  unfold State.faultOccurs; dsimp only; split <;> simp
@[simp] theorem State.faultOccurs_bins (s : State) (k : FaultKind) : (s.faultOccurs k).bins = s.bins := by
  unfold State.faultOccurs; dsimp only; split <;> simp
@[simp] theorem State.faultOccurs_queue (s : State) (k : FaultKind) : (s.faultOccurs k).queue = s.queue := by
  unfold State.faultOccurs; dsimp only; split <;> simp
@[simp] theorem State.faultOccurs_active (s : State) (k : FaultKind) : (s.faultOccurs k).active = s.active := by
  unfold State.faultOccurs; dsimp only; split <;> simp
@[simp] theorem State.faultOccurs_finished (s : State) (k : FaultKind) : (s.faultOccurs k).finished = s.finished := by
  unfold State.faultOccurs; dsimp only; split <;> simp
@[simp] theorem State.faultOccurs_admissionSeq (s : State) (k : FaultKind) : (s.faultOccurs k).admissionSeq = s.admissionSeq := by
  unfold State.faultOccurs; dsimp only; split <;> simp
@[simp] theorem State.faultOccurs_lines (s : State) (k : FaultKind) : (s.faultOccurs k).lines = s.lines := by
  unfold State.faultOccurs; dsimp only; split <;> simp
@[simp] theorem State.faultOccurs_ram (s : State) (k : FaultKind) : (s.faultOccurs k).ram = s.ram := by
  unfold State.faultOccurs; dsimp only; split <;> simp
@[simp] theorem State.faultOccurs_settingsValid (s : State) (k : FaultKind) : (s.faultOccurs k).settingsValid = s.settingsValid := by
  unfold State.faultOccurs; dsimp only; split <;> simp
@[simp] theorem State.faultOccurs_op (s : State) (k : FaultKind) : (s.faultOccurs k).op = s.op := by
  unfold State.faultOccurs; dsimp only; split <;> simp
@[simp] theorem State.faultOccurs_bus (s : State) (k : FaultKind) : (s.faultOccurs k).bus = s.bus := by
  unfold State.faultOccurs; dsimp only; split <;> simp
@[simp] theorem State.faultOccurs_lrstLow (s : State) (k : FaultKind) : (s.faultOccurs k).lrstLow = s.lrstLow := by
  unfold State.faultOccurs; dsimp only; split <;> simp
@[simp] theorem State.faultOccurs_porstLow (s : State) (k : FaultKind) : (s.faultOccurs k).porstLow = s.porstLow := by
  unfold State.faultOccurs; dsimp only; split <;> simp
@[simp] theorem State.faultOccurs_inputs (s : State) (k : FaultKind) : (s.faultOccurs k).inputs = s.inputs := by
  unfold State.faultOccurs; dsimp only; split <;> simp
@[simp] theorem State.faultOccurs_pending (s : State) (k : FaultKind) : (s.faultOccurs k).pending = s.pending := by
  unfold State.faultOccurs; dsimp only; split <;> simp

/-! ## faultEnds -/

@[simp] theorem State.faultEnds_rx (s : State) (k : FaultKind) : (s.faultEnds k).rx = s.rx := by
  simp [State.faultEnds]
@[simp] theorem State.faultEnds_missed (s : State) (k : FaultKind) : (s.faultEnds k).missed = s.missed := by
  simp [State.faultEnds]
@[simp] theorem State.faultEnds_bad (s : State) (k : FaultKind) : (s.faultEnds k).bad = s.bad := by
  simp [State.faultEnds]
@[simp] theorem State.faultEnds_stray (s : State) (k : FaultKind) : (s.faultEnds k).stray = s.stray := by
  simp [State.faultEnds]
@[simp] theorem State.faultEnds_intake (s : State) (k : FaultKind) : (s.faultEnds k).intake = s.intake := by
  simp [State.faultEnds]
@[simp] theorem State.faultEnds_suspended (s : State) (k : FaultKind) : (s.faultEnds k).suspended = s.suspended := by
  simp [State.faultEnds]
@[simp] theorem State.faultEnds_resuming (s : State) (k : FaultKind) : (s.faultEnds k).resuming = s.resuming := by
  simp [State.faultEnds]
@[simp] theorem State.faultEnds_retired (s : State) (k : FaultKind) : (s.faultEnds k).retired = s.retired := by
  simp [State.faultEnds]
@[simp] theorem State.faultEnds_table (s : State) (k : FaultKind) : (s.faultEnds k).table = s.table := by
  simp [State.faultEnds]
@[simp] theorem State.faultEnds_ahead (s : State) (k : FaultKind) : (s.faultEnds k).ahead = s.ahead := by
  simp [State.faultEnds]
@[simp] theorem State.faultEnds_sheetCounter (s : State) (k : FaultKind) : (s.faultEnds k).sheetCounter = s.sheetCounter := by
  simp [State.faultEnds]
@[simp] theorem State.faultEnds_health (s : State) (k : FaultKind) : (s.faultEnds k).health = s.health := by
  simp [State.faultEnds]
@[simp] theorem State.faultEnds_bins (s : State) (k : FaultKind) : (s.faultEnds k).bins = s.bins := by
  simp [State.faultEnds]
@[simp] theorem State.faultEnds_queue (s : State) (k : FaultKind) : (s.faultEnds k).queue = s.queue := by
  simp [State.faultEnds]
@[simp] theorem State.faultEnds_active (s : State) (k : FaultKind) : (s.faultEnds k).active = s.active := by
  simp [State.faultEnds]
@[simp] theorem State.faultEnds_finished (s : State) (k : FaultKind) : (s.faultEnds k).finished = s.finished := by
  simp [State.faultEnds]
@[simp] theorem State.faultEnds_admissionSeq (s : State) (k : FaultKind) : (s.faultEnds k).admissionSeq = s.admissionSeq := by
  simp [State.faultEnds]
@[simp] theorem State.faultEnds_ports (s : State) (k : FaultKind) : (s.faultEnds k).ports = s.ports := by
  simp [State.faultEnds]
@[simp] theorem State.faultEnds_lines (s : State) (k : FaultKind) : (s.faultEnds k).lines = s.lines := by
  simp [State.faultEnds]
@[simp] theorem State.faultEnds_ram (s : State) (k : FaultKind) : (s.faultEnds k).ram = s.ram := by
  simp [State.faultEnds]
@[simp] theorem State.faultEnds_settingsValid (s : State) (k : FaultKind) : (s.faultEnds k).settingsValid = s.settingsValid := by
  simp [State.faultEnds]
@[simp] theorem State.faultEnds_op (s : State) (k : FaultKind) : (s.faultEnds k).op = s.op := by
  simp [State.faultEnds]
@[simp] theorem State.faultEnds_bus (s : State) (k : FaultKind) : (s.faultEnds k).bus = s.bus := by
  simp [State.faultEnds]
@[simp] theorem State.faultEnds_lrstLow (s : State) (k : FaultKind) : (s.faultEnds k).lrstLow = s.lrstLow := by
  simp [State.faultEnds]
@[simp] theorem State.faultEnds_porstLow (s : State) (k : FaultKind) : (s.faultEnds k).porstLow = s.porstLow := by
  simp [State.faultEnds]
@[simp] theorem State.faultEnds_inputs (s : State) (k : FaultKind) : (s.faultEnds k).inputs = s.inputs := by
  simp [State.faultEnds]
@[simp] theorem State.faultEnds_pending (s : State) (k : FaultKind) : (s.faultEnds k).pending = s.pending := by
  simp [State.faultEnds]

/-! ## Ports and entries read after they were written -/

@[simp] theorem State.setPort_port_self (s : State) (p : Port) (x : PortState) : (s.setPort p x).port p = x := by
  cases p <;> rfl

theorem State.setPort_port_ne (s : State) {p q : Port} (x : PortState) (h : q ≠ p) :
    (s.setPort p x).port q = s.port q := by
  cases p <;> cases q <;> first | rfl | exact absurd rfl h

theorem State.setPort_port (s : State) (p q : Port) (x : PortState) :
    (s.setPort p x).port q = if q = p then x else s.port q := by
  cases p <;> cases q <;> rfl

@[simp] theorem State.setPort_setPort (s : State) (p : Port) (x y : PortState) :
    (s.setPort p x).setPort p y = s.setPort p y := by cases p <;> rfl

theorem State.setPort_comm (s : State) {p q : Port} (x y : PortState) (h : p ≠ q) :
    (s.setPort p x).setPort q y = (s.setPort q y).setPort p x := by
  cases p <;> cases q <;> first | rfl | exact absurd rfl h

@[simp] theorem State.setBin_bins (s : State) (b : Fin 8) (r : Bin) : (s.setBin b r).bins = s.bins.set b r := rfl

end Sys2Proof.Machine
end

