-- ==== Sys2Proof/Laws/Ops.lean ====
section
/-! SUPPORT. One lemma per shared operation that says what it can do: frames and answers, event flags,
faults, and the table and the slots seen as lists split at the one that is touched. -/

namespace Sys2Proof.Machine

/-! ## Frames and answers -/

theorem powered_next {s : State} (h : s.porstLow = false) (f : State → State) : powered s f = .next (f s) := by
  simp [powered, h]

theorem powered_held {s : State} (h : s.porstLow = true) (f : State → State) : powered s f = .next s := by
  simp [powered, h]

@[simp] theorem State.port_eta (s : State) (p : Port) : s.setPort p (s.port p) = s := by cases p <;> rfl

/-- What a station frame does, once PORST_N is high. -/
theorem station_next {s : State} (h : s.porstLow = false) (p : Port) (tag : Byte) (right acts : Bool)
    (body : State → State × Option Reply) :
    station p tag right acts body s =
      .next (State.answered p tag (dispatched right acts body (s.acceptFrame p))) := by
  simp [station, powered, h]

/-- A frame whose port may give it, and that acts, is the owning block's decision. -/
theorem dispatched_acts {s : State} {acts : Bool} (body : State → State × Option Reply)
    (h : s.lrstLow = false ∨ acts = true) : dispatched true acts body s = body s := by
  rcases h with h | h <;> simp [dispatched, h]

/-- Acceptance and an answer together leave the state as it was but for the port's answer. -/
theorem State.acceptFrame_placeAnswer (s : State) (p : Port) (tag : Byte) (r : Reply) :
    (s.acceptFrame p).placeAnswer p tag r = s.replied p tag r.code r.payload := by
  simp [State.acceptFrame, State.placeAnswer, State.replied]

/-- A decision that changes nothing leaves the answer alone. -/
theorem station_unchanged {s : State} (h : s.porstLow = false) {p : Port} {tag : Byte} {right acts : Bool}
    {body : State → State × Option Reply} {r : Reply}
    (hb : dispatched right acts body (s.acceptFrame p) = (s.acceptFrame p, some r)) :
    station p tag right acts body s = .next (s.replied p tag r.code r.payload) := by
  rw [station_next h, hb]
  exact congrArg _ (s.acceptFrame_placeAnswer p tag r)

/-- A decision that changes the rest of the block and answers. -/
theorem station_changed {s : State} (h : s.porstLow = false) {p : Port} {tag : Byte} {right acts : Bool}
    {body : State → State × Option Reply} {t : State} {r : Reply}
    (hb : dispatched right acts body (s.acceptFrame p) = (t.acceptFrame p, some r)) :
    station p tag right acts body s = .next (t.replied p tag r.code r.payload) := by
  rw [station_next h, hb]
  exact congrArg _ (t.acceptFrame_placeAnswer p tag r)

/-! ## Event flags -/

theorem setBit_bit (w : Word) {n m : Nat} (hm : m < 16) : (setBit w m).getLsbD n = (w.getLsbD n || decide (n = m)) := by
  rw [setBit, BitVec.getLsbD_or, BitVec.getLsbD_twoPow]
  simp [hm, eq_comm]

theorem State.setFlag_port (s : State) (pn : Port × Nat) (q : Port) :
    (s.setFlag pn).port q =
      if q = pn.1 then { s.port q with flags := setBit (s.port q).flags pn.2 } else s.port q := by
  unfold State.setFlag
  rw [State.setPort_port]
  split
  · next h => rw [h]
  · rfl

/-- The event flags after flags are raised after others. -/
theorem FlagsRaised.trans {s t u : State} {l m : List (Port × Nat)} (h : FlagsRaised s t l) (k : FlagsRaised t u m) :
    FlagsRaised s u (l ++ m) := by
  intro p n hn
  rw [k p n hn, h p n hn]
  by_cases h1 : (p, n) ∈ l <;> by_cases h2 : (p, n) ∈ m <;> simp [h1, h2]

theorem SamePortsButFlags.trans {s t u : State} (h : SamePortsButFlags s t) (k : SamePortsButFlags t u) :
    SamePortsButFlags s u := by
  intro p
  rw [k p, h p]

theorem State.setFlag_raised (s : State) {pn : Port × Nat} (h : pn.2 < 16) : FlagsRaised s (s.setFlag pn) [pn] := by
  intro p n _
  rw [State.setFlag_port]
  obtain ⟨q, m⟩ := pn
  by_cases hp : p = q
  · simp [hp, setBit_bit _ h]
  · simp [hp]

theorem State.setFlag_same (s : State) (pn : Port × Nat) : SamePortsButFlags s (s.setFlag pn) := by
  intro p
  rw [State.setFlag_port]
  split <;> rfl

theorem State.setFlags_raised (s : State) (l : List (Port × Nat)) (h : ∀ pn ∈ l, pn.2 < 16) :
    FlagsRaised s (l.foldl State.setFlag s) l := by
  induction l generalizing s with
  | nil => intro p n _; simp
  | cons pn l ih =>
    exact FlagsRaised.trans (l := [pn]) (s.setFlag_raised (h pn (by simp)))
      (ih (s.setFlag pn) fun x hx => h x (by simp [hx]))

theorem State.setFlags_same (s : State) (l : List (Port × Nat)) : SamePortsButFlags s (l.foldl State.setFlag s) := by
  induction l generalizing s with
  | nil => intro p; rfl
  | cons pn l ih => exact SamePortsButFlags.trans (s.setFlag_same pn) (ih (s.setFlag pn))

/-- Raising an event sets its flags, and nothing else of any port. -/
theorem State.raise_raised (s : State) (e : Event) : FlagsRaised s (s.raise e) e.bits :=
  s.setFlags_raised e.bits (by cases e <;> decide)

theorem State.raise_same (s : State) (e : Event) : SamePortsButFlags s (s.raise e) := s.setFlags_same e.bits

theorem State.raiseIf_raised (s : State) (c : Bool) (e : Event) :
    FlagsRaised s (s.raiseIf c e) (if c then e.bits else []) := by
  cases c
  · intro p n _; simp [State.raiseIf]
  · exact s.raise_raised e

theorem State.raiseIf_same (s : State) (c : Bool) (e : Event) : SamePortsButFlags s (s.raiseIf c e) := by
  cases c
  · intro p; rfl
  · exact s.raise_same e

@[simp] theorem State.raiseIf_false (s : State) (e : Event) : s.raiseIf false e = s := rfl

/-- The line-hold condition reads the settings, the table and the bins alone (R185). -/
theorem lineHold_congr {s t : State} (h1 : t.ram = s.ram) (h2 : t.table = s.table) (h3 : t.bins = s.bins) :
    t.lineHold = s.lineHold := by
  simp [State.lineHold, h1, h2, h3]

/-- The announcement of an event that changed neither condition is nothing. -/
theorem State.announce_eq {s t : State} (h1 : fullBins s.bins = fullBins t.bins) (h2 : s.lineHold = t.lineHold) :
    s.announce t = t := by
  simp [State.announce, h1, h2]

/-- What an announcement sets (R76, R185). -/
theorem State.announce_raised (s t : State) : FlagsRaised t (s.announce t) (fullFlags s t ++ holdFlag s t) := by
  have h := (t.raiseIf_raised (fullBins s.bins != fullBins t.bins) .binChanged).trans
    (State.raiseIf_raised _ (s.lineHold != t.lineHold) .holdChanged)
  intro p n hn
  have := h p n hn
  unfold State.announce
  rw [this]
  by_cases h1 : fullBins s.bins = fullBins t.bins <;> by_cases h2 : s.lineHold = t.lineHold <;>
    simp [h1, h2, fullFlags, holdFlag, Event.bits]

theorem State.announce_same (s t : State) : SamePortsButFlags t (s.announce t) :=
  (t.raiseIf_same _ _).trans (State.raiseIf_same _ _ _)

/-! ## Faults -/

@[simp] theorem anyPending_eq (f : PerFault FaultEntry) : anyPending f = true ↔ ∃ k, (f.get k).pending = true := by
  simp [anyPending]

/-- An occurrence of a fault kind (R171). -/
theorem State.faultOccurs_faults (s : State) (k : FaultKind) :
    (s.faultOccurs k).faults = s.faults.set k { pending := true, count := min 255 ((s.faults.get k).count + 1) } := by
  unfold State.faultOccurs
  dsimp only
  split <;> simp [satSucc, Config.faultCountMax]

/-- The first-fault record after an occurrence (R171, R172). -/
theorem State.faultOccurs_firstFault (s : State) (k : FaultKind) :
    (s.faultOccurs k).firstFault = if (s.faults.get k).pending then s.firstFault else s.recordFault k := by
  unfold State.faultOccurs
  dsimp only
  split <;> simp

/-- The ports after an occurrence (R171). -/
theorem State.faultOccurs_raised (s : State) (k : FaultKind) :
    FlagsRaised s (s.faultOccurs k) (if (s.faults.get k).pending then [] else [(.line, 6)]) := by
  unfold State.faultOccurs
  dsimp only
  split
  · intro p n _; simp [State.port]
  · exact State.raise_raised _ .faultRaised

theorem State.faultOccurs_same (s : State) (k : FaultKind) : SamePortsButFlags s (s.faultOccurs k) := by
  unfold State.faultOccurs
  dsimp only
  split
  · intro p; rfl
  · exact State.raise_same _ .faultRaised

/-- The end of a fault kind clears its pending flag, and with no kind pending the first-fault record. -/
theorem State.faultEnds_eq (s : State) (k : FaultKind) :
    let faults := s.faults.set k { s.faults.get k with pending := false }
    s.faultEnds k = { s with faults := faults, firstFault := if anyPending faults then s.firstFault else none } := by
  simp only [State.faultEnds, State.settleFirstFault]
  split <;> simp_all

/-! ## The held tags, and the sheet table split at an entry -/

/-- Letting go of what is held for an entry's tag touches the three held tags alone. -/
theorem State.letGo_eq (s : State) (tag : Byte) :
    s.letGo tag = { s with
      suspended := if s.resuming = some tag then none else s.suspended
      resuming := if s.resuming = some tag then none else s.resuming
      retired := if s.retired.bind Retired.heir = some tag then none else s.retired } := by
  unfold State.letGo
  by_cases h : s.resuming = some tag <;> by_cases h' : s.retired.bind Retired.heir = some tag <;> simp [h, h']

theorem find_split {older younger : List Entry} {e : Entry} {f : Entry → Bool} (h : ∀ x ∈ older, f x = false)
    (he : f e = true) : (older ++ e :: younger).find? f = some e := by
  rw [List.find?_append, List.find?_eq_none.mpr (by simpa using h)]
  simp [he]

theorem State.entryOf_split {s : State} {older younger : List Entry} {e : Entry}
    (hs : s.table = older ++ e :: younger) (h : ∀ x ∈ older ++ younger, x.tag ≠ e.tag) :
    s.entryOf e.tag = some e := by
  unfold State.entryOf
  rw [hs]
  exact find_split (fun x hx => by simpa using h x (by simp [hx])) (by simp)

theorem map_split {older younger : List Entry} {e e' : Entry} (ht : e'.tag = e.tag)
    (h : ∀ x ∈ older ++ younger, x.tag ≠ e.tag) :
    (older ++ e :: younger).map (fun x => if x.tag = e'.tag then e' else x) = older ++ e' :: younger := by
  rw [ht, List.map_append, List.map_cons, if_pos rfl]
  congr 1
  · conv_rhs => rw [← List.map_id older]
    exact List.map_congr_left fun x hx => if_neg (h x (by simp [hx]))
  · congr 1
    conv_rhs => rw [← List.map_id younger]
    exact List.map_congr_left fun x hx => if_neg (h x (by simp [hx]))

/-- An entry is replaced where it stands. -/
theorem State.setEntry_split {s : State} {older younger : List Entry} {e e' : Entry}
    (hs : s.table = older ++ e :: younger) (ht : e'.tag = e.tag) (h : ∀ x ∈ older ++ younger, x.tag ≠ e.tag) :
    s.setEntry e' = { s with table := older ++ e' :: younger } := by
  unfold State.setEntry
  rw [hs, map_split ht h]

theorem filter_split {older younger : List Entry} {e : Entry} (h : ∀ x ∈ older ++ younger, x.tag ≠ e.tag) :
    (older ++ e :: younger).filter (fun x => x.tag ≠ e.tag) = older ++ younger := by
  rw [List.filter_append, List.filter_cons_of_neg (by simp), ← List.filter_append, List.filter_eq_self]
  intro x hx
  simpa using h x hx

/-- In a table that keeps its invariant no other entry carries an entry's tag (R9). -/
theorem TableInv.tags {s : State} (h : TableInv s) {older younger : List Entry} {e : Entry}
    (hs : s.table = older ++ e :: younger) : ∀ x ∈ older ++ younger, x.tag ≠ e.tag := by
  have ht := h.2.1
  rw [hs, List.pairwise_append, List.pairwise_cons] at ht
  intro x hx
  rcases List.mem_append.mp hx with hx | hx
  · exact ht.2.2 x hx e (by simp)
  · exact fun he => ht.2.1.1 x hx he.symm

/-- The engine, when it is free or nothing is READY, is left as it is (R27, R28). -/
theorem State.engineTake_none {s : State} (h : s.engineBusy = true ∨ ∀ x ∈ s.table, x.state ≠ .ready) :
    s.engineTake = s := by
  unfold State.engineTake
  split
  · rfl
  · rename_i hb
    rcases h with h | h
    · exact absurd h hb
    · rw [List.find?_eq_none.mpr (by simpa using h)]

/-- The free engine takes the oldest READY entry (R28). -/
theorem State.engineTake_some {s : State} {older younger : List Entry} {e : Entry} (hb : s.engineBusy = false)
    (hs : s.table = older ++ e :: younger) (ho : ∀ x ∈ older, x.state ≠ .ready) (he : e.state = .ready)
    (ht : ∀ x ∈ older ++ younger, x.tag ≠ e.tag) :
    s.engineTake = { s with table := older ++ { e with state := .grading } :: younger } := by
  unfold State.engineTake
  rw [hb, hs]
  simp only [Bool.false_eq_true, if_false]
  rw [find_split (f := fun e => decide (e.state = .ready)) (by simpa using ho) (by simp [he])]
  exact s.setEntry_split hs rfl ht

/-! ## The slots split at an order -/

/-- No other active order stands in an order's slot, nor carries its number (R109, R110). -/
theorem OrderInv.others {s : State} (h : OrderInv s) {before after : List Active} {a : Active}
    (hs : s.active = before ++ a :: after) :
    (∀ x ∈ before ++ after, x.slot ≠ a.slot) ∧ (∀ x ∈ before ++ after, x.number ≠ a.number) ∧
      ∀ o ∈ s.queue, o.number ≠ a.number := by
  obtain ⟨-, -, hn, hk, -⟩ := h
  rw [hs, List.pairwise_append, List.pairwise_cons] at hk
  rw [hs, List.pairwise_append] at hn
  obtain ⟨-, hn, hq⟩ := hn
  rw [List.map_append, List.map_cons, List.pairwise_append, List.pairwise_cons] at hn
  refine ⟨fun x hx => ?_, fun x hx => ?_, fun o ho => ?_⟩
  · rcases List.mem_append.mp hx with hx | hx
    · exact hk.2.2 x hx a (by simp)
    · exact fun he => hk.2.1.1 x hx he.symm
  · rcases List.mem_append.mp hx with hx | hx
    · exact hn.2.2 _ (List.mem_map_of_mem hx) a.number (by simp)
    · exact fun he => hn.2.1.1 _ (List.mem_map_of_mem hx) he.symm
  · exact hq _ (List.mem_map_of_mem ho) _ (by simp)

theorem find_active_split {before after : List Active} {a : Active} {f : Active → Bool}
    (h : ∀ x ∈ before ++ after, f x = false) (ha : f a = true) : (before ++ a :: after).find? f = some a := by
  rw [List.find?_append, List.find?_eq_none.mpr (fun x hx => by simp [h x (by simp [hx])])]
  simp [ha]

/-- The order of a number that an active order carries is that order. -/
theorem State.findActive_split {s : State} (h : OrderInv s) {before after : List Active} {a : Active}
    (hs : s.active = before ++ a :: after) : s.findActive a.number = some a := by
  unfold State.findActive
  rw [hs]
  exact find_active_split (fun x hx => by simpa using (h.others hs).2.1 x hx) (by simp)

/-- The order in the slot of an active order is that order. -/
theorem State.findSlot_split {s : State} (h : OrderInv s) {before after : List Active} {a : Active}
    (hs : s.active = before ++ a :: after) : s.findSlot a.slot = some a := by
  unfold State.findSlot
  rw [hs]
  exact find_active_split (fun x hx => by simpa using (h.others hs).1 x hx) (by simp)

/-- An active order is replaced where it stands. -/
theorem State.setActive_split {s : State} (h : OrderInv s) {before after : List Active} {a a' : Active}
    (hs : s.active = before ++ a :: after) (hk : a'.slot = a.slot) :
    (s.setActive a').active = before ++ a' :: after := by
  unfold State.setActive
  dsimp only
  rw [hs, hk, List.map_append, List.map_cons, if_pos rfl]
  have hx := (h.others hs).1
  congr 1
  · conv_rhs => rw [← List.map_id before]
    exact List.map_congr_left fun x h => if_neg (hx x (by simp [h]))
  · congr 1
    conv_rhs => rw [← List.map_id after]
    exact List.map_congr_left fun x h => if_neg (hx x (by simp [h]))

/-- The order of a slot is taken out, and the others keep their order (R112). -/
theorem State.freeSlot_split {s : State} (h : OrderInv s) {before after : List Active} {a : Active}
    (hs : s.active = before ++ a :: after) : (s.freeSlot a.slot).active = before ++ after := by
  unfold State.freeSlot
  dsimp only
  rw [hs, List.filter_append, List.filter_cons_of_neg (by simp), ← List.filter_append, List.filter_eq_self]
  intro x hx
  simpa using (h.others hs).1 x hx

end Sys2Proof.Machine
end

