-- ==== Sys2Proof/Laws/Inputs.lean ====
section
/-! SUPPORT. One lemma per input operation that says what it can do: clock edges, the EEPROM bus, and the
changes of a line's debounced level. -/

namespace Sys2Proof.Machine

/-! ## Clock edges -/

/-- A rising edge takes its bit, and only in an open window. -/
theorem PortState.clockRise_edge {ps : PortState} (bit : Bool) (h : ps.sck = false) (hw : ps.window.isOpen = true) :
    ps.clockRise bit = { ps with sck := true, shift := ps.shift.clock bit } := by
  simp [PortState.clockRise, h, hw]

/-- A clock that goes high without an edge, or with no open window, takes no bit. -/
theorem PortState.clockRise_none {ps : PortState} (bit : Bool) (h : ps.sck = true ∨ ps.window.isOpen = false) :
    ps.clockRise bit = { ps with sck := true } := by
  rcases h with h | h <;> simp [PortState.clockRise, h]

/-- A falling edge presents the next bit, and only in an open window. -/
theorem PortState.clockFall_edge {ps : PortState} (h : ps.sck = true) (hw : ps.window.isOpen = true) :
    ps.clockFall = { ps with sck := false, sent := ps.sent + 1 } := by
  simp [PortState.clockFall, h, hw]

/-- A clock that goes low without an edge, or with no open window, presents nothing. -/
theorem PortState.clockFall_none {ps : PortState} (h : ps.sck = false ∨ ps.window.isOpen = false) :
    ps.clockFall = { ps with sck := false } := by
  rcases h with h | h <;> simp [PortState.clockFall, h]

theorem Window.isOpen_iff (w : Window) : w.isOpen = true ↔ ∃ b answer n, w = .opened b answer n := by
  cases w <;> simp [Window.isOpen]

/-- What a window puts on SDO does not depend on the frame received or on the clock's level. -/
@[simp] theorem PortState.clockRise_sdo (ps : PortState) (bit : Bool) : (ps.clockRise bit).sdo = ps.sdo := rfl

/-! ## The EEPROM bus -/

@[simp] theorem State.endTransfer_bus (s : State) (c : Instr) : (s.endTransfer c).bus = .idle := rfl

@[simp] theorem State.endTransfer_op (s : State) (c : Instr) : (s.endTransfer c).op = s.op := rfl

@[simp] theorem State.endTransfer_pending (s : State) (c : Instr) :
    (s.endTransfer c).pending = s.pending ++ [c] := rfl

/-- What one event on the bus makes of the state: nothing, a move to a place that fits the operation, or the end
of the transfer with the command of its outcome. -/
def BusEffect (s t : State) : Prop :=
  t = s ∨ (∃ b, t = { s with bus := b } ∧ (s.bus.fits s.op = true → b.fits s.op = true)) ∨ ∃ c, t = s.endTransfer c

theorem State.nack_effect (s : State) : BusEffect s s.nack := by
  refine .inr (.inr ?_)
  unfold State.nack
  split <;> exact ⟨_, rfl⟩

theorem State.imageRead_effect (s : State) (bytes : List Byte) : BusEffect s (s.imageRead bytes) := by
  refine .inr (.inr ?_)
  unfold State.imageRead
  split <;> exact ⟨_, rfl⟩

theorem State.busAck_effect (s : State) (acked : Bool) : BusEffect s (s.busAck acked) := by
  unfold State.busAck
  split
  next => exact .inl rfl
  next sent bytes hb =>
    split
    · split
      · refine .inr (.inl ⟨_, rfl, ?_⟩)
        rw [hb]
        simp only [Bus.fits, readHead, deviceWrite, deviceRead, bytesOf, List.length_append, List.length_cons,
          List.length_nil, Bool.and_eq_true, Bool.or_eq_true, decide_eq_true_eq] at *
        rintro ⟨⟨⟨h1, h2⟩, h3⟩, h4⟩
        refine ⟨⟨⟨h1, by omega⟩, h3⟩, h4.imp id fun h => by omega⟩
      · exact s.nack_effect
    · exact .inl rfl
  next index sent hb =>
    split
    · refine .inr (.inl ⟨_, rfl, ?_⟩)
      rw [hb]
      by_cases h : sent < 3 <;> simp +contextual [Bus.fits, h]
      omega
    · exact s.nack_effect
  next index waited hb =>
    split
    · refine .inr (.inl ⟨_, rfl, ?_⟩)
      rw [hb]
      unfold Bus.afterWait
      split <;> simp_all [Bus.fits, Config.imageBytes]
    · exact .inl rfl

theorem State.busData_effect (s : State) (byte : Byte) : BusEffect s (s.busData byte) := by
  unfold State.busData
  split
  next sent bytes hb =>
    split
    · exact .inl rfl
    · split
      · refine .inr (.inl ⟨_, rfl, ?_⟩)
        rw [hb]
        simp only [Bus.fits, readHead, deviceWrite, deviceRead, bytesOf, List.length_append, List.length_cons,
          List.length_nil, Bool.and_eq_true, Bool.or_eq_true, decide_eq_true_eq, Config.imageBytes] at *
        rintro ⟨⟨⟨h1, h2⟩, h3⟩, h4⟩
        exact ⟨⟨⟨h1, h2⟩, by omega⟩, .inr (by omega)⟩
      · exact s.imageRead_effect _
  all_goals exact .inl rfl

/-- An event on the bus keeps it where the operation can have it. -/
theorem BusEffect.keeps {s t : State} (h : BusEffect s t) (hs : BusInv s) (hp : s.bus = .idle → t.bus = .idle) :
    BusInv t := by
  obtain rfl | ⟨b, rfl, hb⟩ | ⟨c, rfl⟩ := h
  · exact hs
  · exact ⟨hb hs.1, fun h => hp (hs.2 h)⟩
  · exact ⟨rfl, fun _ => rfl⟩

/-! ## The debounced level of a line -/

/-- A change is due exactly when the level has differed for 8 ms, and it is to the other level. -/
theorem Line.changeDue_eq_some (l : Line) (active : Bool) :
    l.changeDue = some active ↔ 8 ≤ l.differ ∧ l.debounced = some (!active) := by
  unfold Line.changeDue Config.debounceMs
  cases h : l.debounced <;> cases active <;> simp

/-- What a command of a line's debounced level does: the lapsed change is dropped, the change is made, or the level is
held already. -/
theorem State.lineChange_cases (s : State) (k : Fin 8) (active : Bool) (change : State → State) :
    ((s.lines.get k).lapsed = some active ∧ s.lineChange k active change =
      { s with lines := s.lines.set k { s.lines.get k with lapsed := none } }) ∨
    ((s.lines.get k).lapsed ≠ some active ∧ (s.lines.get k).debounced = some (!active) ∧
      s.lineChange k active change = change s) ∨
    ((s.lines.get k).lapsed ≠ some active ∧ (s.lines.get k).debounced ≠ some (!active) ∧
      s.lineChange k active change = s) := by
  unfold State.lineChange
  split
  next h => exact .inl ⟨h, rfl⟩
  next h =>
    split
    next hd => exact .inr (.inl ⟨h, hd, rfl⟩)
    next hd => exact .inr (.inr ⟨h, hd, rfl⟩)

end Sys2Proof.Machine
end

