-- ==== Sys2Proof/Laws/Scheduler.lean ====
section
/-! SUPPORT. One lemma per operation of the layup scheduler that says what it can do, and one induction for
each loop over the active orders or the queue. -/

namespace Sys2Proof.Machine

/-! ## Choosing a bin -/

/-- What a fold over bins in rising order has found among those it has seen. -/
theorem pickLargest_fold (c : Fin 8 → Bool) (key : Fin 8 → Nat) (l : List (Fin 8)) (hl : l.Pairwise (· < ·)) :
    match l.foldl (fun best i => if c i && best.all (fun j => key j < key i) then some i else best) none with
    | none => ∀ i ∈ l, c i = false
    | some b => b ∈ l ∧ c b = true ∧ ∀ i ∈ l, c i = true → key i < key b ∨ (key i = key b ∧ b.val ≤ i.val) := by
  induction l using List.reverseRecOn with
  | nil => simp
  | append_singleton l x ih =>
    rw [List.pairwise_append] at hl
    have ih := ih hl.1
    rw [List.foldl_append]
    simp only [List.foldl_cons, List.foldl_nil]
    generalize l.foldl (fun best i => if c i && best.all (fun j => key j < key i) then some i else best) none = best at ih
    cases best with
    | none =>
      by_cases hx : c x = true
      · simp only [hx, Option.all_none, Bool.and_self, if_true]
        refine ⟨by simp, trivial, fun i hi hc => ?_⟩
        rcases List.mem_append.1 hi with hi | hi
        · simp [ih i hi] at hc
        · simp [List.mem_singleton.1 hi]
      · simp only [Bool.not_eq_true] at hx
        simp only [hx, Bool.false_and, Bool.false_eq_true, if_false]
        intro i hi
        rcases List.mem_append.1 hi with hi | hi
        · exact ih i hi
        · simpa [List.mem_singleton.1 hi] using hx
    | some b =>
      obtain ⟨hb, hc, hm⟩ := ih
      have hlt : b.val < x.val := hl.2.2 b hb x (by simp)
      by_cases hx : (c x && (some b).all fun j => key j < key x) = true
      · simp only [hx, if_true]
        simp only [Option.all_some, Bool.and_eq_true, decide_eq_true_eq] at hx
        refine ⟨by simp, hx.1, fun i hi hci => ?_⟩
        rcases List.mem_append.1 hi with hi | hi
        · rcases hm i hi hci with h | h <;> omega
        · simp [List.mem_singleton.1 hi]
      · simp only [hx]
        refine ⟨by simp [hb], hc, fun i hi hci => ?_⟩
        rcases List.mem_append.1 hi with hi | hi
        · exact hm i hi hci
        · obtain rfl := List.mem_singleton.1 hi
          simp only [Option.all_some, Bool.and_eq_true, decide_eq_true_eq, hci, true_and] at hx
          omega

/-- The choice is a candidate with the largest key, the lowest number of several. -/
theorem pickLargest_some {c : Fin 8 → Bool} {key : Fin 8 → Nat} {b : Fin 8} :
    pickLargest c key = some b ↔
      c b = true ∧ ∀ i, c i = true → key i < key b ∨ (key i = key b ∧ b.val ≤ i.val) := by
  have h := pickLargest_fold c key eight (by decide)
  rw [← pickLargest] at h
  constructor
  · intro hb
    simp only [hb] at h
    exact ⟨h.2.1, fun i => h.2.2 i (mem_eight i)⟩
  · rintro ⟨hc, hm⟩
    cases hp : pickLargest c key with
    | none =>
      simp only [hp] at h
      simp [h b (mem_eight b)] at hc
    | some x =>
      simp only [hp] at h
      have h1 := hm x h.2.1
      have h2 := h.2.2 b (mem_eight b) hc
      exact congrArg some (Fin.ext (by omega))

theorem pickLargest_none {c : Fin 8 → Bool} {key : Fin 8 → Nat} :
    pickLargest c key = none ↔ ∀ i, c i = false := by
  have h := pickLargest_fold c key eight (by decide)
  rw [← pickLargest] at h
  constructor
  · intro hn
    simp only [hn] at h
    exact fun i => h i (mem_eight i)
  · intro hn
    cases hp : pickLargest c key with
    | none => rfl
    | some x =>
      simp only [hp] at h
      simp [hn x] at h

/-- A ply's choice is a bin of a grade's class, not OFFLINE, with availability left. -/
theorem plyChoice_fits {bins : Oct Bin} {avail : Oct Nat} {p : Ply} {b : Fin 8} (h : plyChoice bins avail p = some b) :
    (bins.get b).mode ≠ .offline ∧ (∃ g ∈ p.classes, (bins.get b).cls = .grade g) ∧ 0 < avail.get b := by
  obtain ⟨g, hg, hb⟩ := List.exists_of_findSome?_eq_some h
  have h1 := (pickLargest_some.1 hb).1
  simp only [Bool.and_eq_true, decide_eq_true_eq] at h1
  exact ⟨h1.1.1, ⟨g, hg, h1.1.2⟩, h1.2⟩

/-- A complete plan names a bin for each ply, none OFFLINE, and no bin more often than it is available. -/
theorem planPlies_fits {bins : Oct Bin} {avail : Oct Nat} {ps : List Ply} {bs : List (Fin 8)}
    (h : planPlies bins avail ps = some bs) :
    bs.length = ps.length ∧ (∀ b ∈ bs, (bins.get b).mode ≠ .offline) ∧ ∀ i, bs.count i ≤ avail.get i := by
  induction ps generalizing avail bs with
  | nil =>
    simp only [planPlies, Option.some.injEq] at h
    subst h
    simp
  | cons p rest ih =>
    rw [planPlies] at h
    cases hc : plyChoice bins avail p with
    | none => simp [hc] at h
    | some b =>
      simp only [hc, Option.map_eq_some_iff] at h
      obtain ⟨cs, hcs, rfl⟩ := h
      obtain ⟨h1, h2, h3⟩ := ih hcs
      obtain ⟨hm, -, hp⟩ := plyChoice_fits hc
      refine ⟨by simp [h1], ?_, fun i => ?_⟩
      · rintro x hx
        rcases List.mem_cons.1 hx with rfl | hx
        · exact hm
        · exact h2 x hx
      · have h4 := h3 i
        rw [List.count_cons]
        by_cases hi : b = i
        · subst hi
          rw [Oct.get_set_self] at h4
          simp only [beq_self_eq_true, if_true]
          omega
        · rw [Oct.get_set_ne _ _ (Ne.symm hi)] at h4
          simp [hi, h4]

/-! ## Reservations -/

/-- A reservation request raises each bin's reserved by as often as it names it. -/
theorem reserveAll_get (bins : Oct Bin) (bs : List (Fin 8)) (i : Fin 8) :
    (reserveAll bins bs).get i = { bins.get i with reserved := (bins.get i).reserved + bs.count i } := by
  induction bs generalizing bins with
  | nil => rfl
  | cons b rest ih =>
    rw [reserveAll, List.foldl_cons, ← reserveAll, ih, List.count_cons, reserveOne]
    by_cases hi : b = i
    · subst hi
      simp [Oct.get_set_self, Nat.add_assoc, Nat.add_comm 1]
    · simp [Oct.get_set_ne _ _ (Ne.symm hi), hi]

/-- A release request lowers each bin's reserved by as often as it names it. -/
theorem releaseAll_get (bins : Oct Bin) (bs : List (Fin 8)) (i : Fin 8) :
    (releaseAll bins bs).get i = { bins.get i with reserved := (bins.get i).reserved - bs.count i } := by
  induction bs generalizing bins with
  | nil => rfl
  | cons b rest ih =>
    rw [releaseAll, List.foldl_cons, ← releaseAll, ih, List.count_cons, releaseOne]
    by_cases hi : b = i
    · subst hi
      simp [Oct.get_set_self, Nat.sub_sub, Nat.add_comm]
    · simp [Oct.get_set_ne _ _ (Ne.symm hi), hi]

/-! ## What each operation can do, and one induction for each loop -/

/-- An admission that succeeds. -/
theorem State.admitHead_some {s t : State} (h : s.admitHead = some t) :
    ∃ k o rest bs, s.lowestFree = some k ∧ s.queue = o :: rest ∧
      planPlies s.bins (availableNow s.bins) o.plies = some bs ∧
      t = { s with
        queue := rest
        active := s.active ++ [admittedRecord s k o bs]
        bins := reserveAll s.bins bs
        admissionSeq := s.admissionSeq + 1 }.raise .admitted := by
  unfold State.admitHead at h
  split at h
  next k o rest hk hq =>
    obtain ⟨bs, hb, rfl⟩ := Option.map_eq_some_iff.1 h
    exact ⟨k, o, rest, bs, hk, hq, hb, rfl⟩
  next => simp at h

/-- What every admission keeps, the tries of one moment keep. -/
theorem State.admissions_induct {P : State → Prop} (step : ∀ s t, P s → s.admitHead = some t → P t) {s : State}
    (h : P s) : P s.admissions := by
  have go : ∀ n s, P s → P (State.admitUpTo n s) := by
    intro n
    induction n with
    | zero => exact fun _ h => h
    | succ n ih =>
      intro s h
      rw [State.admitUpTo]
      split
      next t ht => exact ih t (step s t h ht)
      next => exact h
  exact go 2 s h

/-- A retry leaves the state, or plans every unplanned ply of a STALLED order and reserves its sheets. -/
theorem State.retryStalled_cases (s : State) (k : Fin 2) :
    s.retryStalled k = s ∨ ∃ a bs, s.findSlot k = some a ∧ a.state = .stalled ∧
      planPlies s.bins (availableNow s.bins) ((a.plies.filter ActivePly.unplanned).map ActivePly.ply) = some bs ∧
      s.retryStalled k =
        { s.setActive { a with
            plies := fillPlan a.plies bs, state := workedOut (fillPlan a.plies bs) a.called } with
          bins := reserveAll s.bins bs }.raise .resumed := by
  unfold State.retryStalled
  split
  next => exact .inl rfl
  next a ha =>
    split
    next hs =>
      split
      next => exact .inl rfl
      next bs hb => exact .inr ⟨a, bs, ha, hs, hb, rfl⟩
    next => exact .inl rfl

/-- What every retry keeps, the retries of a growth keep. -/
theorem State.retries_induct {P : State → Prop} (step : ∀ s k, P s → P (s.retryStalled k)) {s : State} (h : P s) :
    P s.retries := by
  unfold State.retries
  generalize s.active.map Active.slot = l
  induction l generalizing s with
  | nil => exact h
  | cons k l ih => exact ih (step s k h)

/-- What every retry and every admission keep, a growth keeps. -/
theorem State.growth_induct {P : State → Prop} (retry : ∀ s k, P s → P (s.retryStalled k))
    (admission : ∀ s t, P s → s.admitHead = some t → P t) {s : State} (h : P s) : P s.growth :=
  State.admissions_induct admission (State.retries_induct retry h)

/-- What a settlement of one order keeps, the settlement of all keeps. -/
theorem State.settlement_induct {P : State → Prop} {b : Fin 8} (step : ∀ s k, P s → P (State.settleSlot b s k))
    {s : State} (h : P s) : P (s.settlement b) := by
  unfold State.settlement
  generalize s.active.map Active.slot = l
  induction l generalizing s with
  | nil => exact h
  | cons k l ih => exact ih (step s k h)

/-- The finish of an order, as the statements name it. -/
theorem State.leaveSlot_finishOrder (s : State) (a : Active) (x : Finish) :
    s.leaveSlot a x = s.finishOrder (s.active.filter fun y => y.slot ≠ a.slot) a.number x := by
  simp [State.leaveSlot, State.freeSlot, State.reportFinish, State.finishOrder, pushFinished, State.raise, Event.bits,
    State.setFlag, setBit, Config.finishedSize]
  rfl

/-- A release at an abort or an UNCALL is a growth where it releases something. -/
theorem State.afterRelease_eq (s : State) (released : List (Fin 8)) :
    s.afterRelease released = if released = [] then s.admissions else s.growth := by
  cases released <;> rfl

/-- Re-planning keeps the plies, what is taken, and every ply that was not planned on the bin. -/
theorem replan_plies (b : Fin 8) (ps : List ActivePly) (bins : Oct Bin) :
    (replan b ps bins).1.map ActivePly.ply = ps.map ActivePly.ply ∧
    (replan b ps bins).1.map ActivePly.taken = ps.map ActivePly.taken ∧
    (∀ (n : Nat) (p q : ActivePly), ps[n]? = some p → (replan b ps bins).1[n]? = some q → p.heldOn b = false → q = p) := by
  induction ps generalizing bins with
  | nil => simp [replan]
  | cons p rest ih =>
    have key : ∀ (x : ActivePly) (bins' : Oct Bin), x.ply = p.ply → x.taken = p.taken →
        (p.heldOn b = false → x = p) →
        (x :: (replan b rest bins').1).map ActivePly.ply = (p :: rest).map ActivePly.ply ∧
        (x :: (replan b rest bins').1).map ActivePly.taken = (p :: rest).map ActivePly.taken ∧
        ∀ (n : Nat) (r q : ActivePly), (p :: rest)[n]? = some r → (x :: (replan b rest bins').1)[n]? = some q → r.heldOn b = false → q = r := by
      intro x bins' h1 h2 h3
      obtain ⟨i1, i2, i3⟩ := ih bins'
      refine ⟨by simp [h1, i1], by simp [h2, i2], fun n r q hr hq hb => ?_⟩
      cases n with
      | zero =>
        simp only [List.getElem?_cons_zero, Option.some.injEq] at hr hq
        subst hr hq
        exact h3 hb
      | succ n => exact i3 n r q (by simpa using hr) (by simpa using hq) hb
    rw [replan]
    split
    next hp =>
      have held : p.heldOn b = true := hp
      split
      next c hc => exact key _ _ rfl rfl (by simp [held])
      next hc => exact key _ _ rfl rfl (by simp [held])
    next hp => exact key p bins rfl rfl (fun _ => rfl)

/-- What a re-planning does, said once: the held plies get in turn what the ply choice finds for each, as the
bins stand after those before it (R139). -/
theorem replan_spec (b : Fin 8) (ps : List ActivePly) (bins : Oct Bin) :
    ∃ chosen : List (Option (Fin 8)),
      chosen.length = (ps.filter fun p => p.heldOn b).length ∧
      (∀ (n : Nat) (p : ActivePly), (ps.filter fun p => p.heldOn b)[n]? = some p →
        let now := reserveAll bins ((chosen.take n).filterMap id)
        chosen[n]? = some (plyChoice now (availableNow now) p.ply)) ∧
      (replan b ps bins).1.length = ps.length ∧
      (∀ (n : Nat) (p : ActivePly), ps[n]? = some p → (replan b ps bins).1[n]? = some (if p.heldOn b then
        { p with bin := (chosen[((ps.take n).filter fun q => q.heldOn b).length]?).join } else p)) ∧
      (replan b ps bins).2.1 = reserveAll bins (chosen.filterMap id) ∧
      ((replan b ps bins).2.2 = true ↔ none ∈ chosen) := by
  induction ps generalizing bins with
  | nil => exact ⟨[], by simp [replan, reserveAll]⟩
  | cons p rest ih =>
    by_cases held : p.heldOn b = true
    · have held' : (!p.taken && p.bin = some b) = true := held
      rw [replan, if_pos held']
      cases hc : plyChoice bins (availableNow bins) p.ply with
      | some c =>
        obtain ⟨chosen, h1, h2, h3, h4, h5, h6⟩ := ih (reserveOne bins c)
        refine ⟨some c :: chosen, by simp [held, h1], ?_, by simp [h3], ?_, by simpa [reserveAll] using h5,
          by simpa using h6⟩
        · intro n q hq
          cases n with
          | zero => simp [held] at hq; subst hq; simp [reserveAll, hc]
          | succ n => simpa [reserveAll] using h2 n q (by simpa [held] using hq)
        · intro n q hq
          cases n with
          | zero => simp at hq; subst hq; simp [held]
          | succ n => simpa [held] using h4 n q (by simpa using hq)
      | none =>
        obtain ⟨chosen, h1, h2, h3, h4, h5, h6⟩ := ih bins
        refine ⟨none :: chosen, by simp [held, h1], ?_, by simp [h3], ?_, by simpa [reserveAll] using h5, by simp⟩
        · intro n q hq
          cases n with
          | zero => simp [held] at hq; subst hq; simp [reserveAll, hc]
          | succ n => simpa [reserveAll] using h2 n q (by simpa [held] using hq)
        · intro n q hq
          cases n with
          | zero => simp at hq; subst hq; simp [held]
          | succ n => simpa [held] using h4 n q (by simpa using hq)
    · have held' : ¬ (!p.taken && p.bin = some b) = true := held
      obtain ⟨chosen, h1, h2, h3, h4, h5, h6⟩ := ih bins
      rw [replan, if_neg held']
      refine ⟨chosen, by simp [held, h1], fun n q hq => h2 n q (by simpa [held] using hq), by simp [h3], ?_, h5, h6⟩
      intro n q hq
      cases n with
      | zero => simp at hq; subst hq; simp [held]
      | succ n => simpa [held] using h4 n q (by simpa using hq)
/-- Filling a plan keeps the plies and what is taken. -/
theorem fillPlan_plies (ps : List ActivePly) (bs : List (Fin 8)) :
    (fillPlan ps bs).map ActivePly.ply = ps.map ActivePly.ply ∧
    (fillPlan ps bs).map ActivePly.taken = ps.map ActivePly.taken := by
  induction ps generalizing bs with
  | nil => simp [fillPlan]
  | cons p rest ih =>
    cases bs with
    | nil => simp [fillPlan, (ih []).1, (ih []).2]
    | cons b bs =>
      rw [fillPlan]
      split
      · simp [(ih bs).1, (ih bs).2]
      · simp [(ih (b :: bs)).1, (ih (b :: bs)).2]

end Sys2Proof.Machine
end

