-- ==== Sys2Proof/Tests/Slice0.lean ====
section
/-! SUPPORT. Small tests of single steps with the spec's own figures, and for every statement that has
hypotheses a concrete state that meets them. -/

namespace Sys2Proof.Tests

open Sys2Proof Sys2Proof.Machine

/-! ## States to test on -/

/-- The state after one command. -/
def after (c : Instr) (s : State) : State :=
  match exec c s with
  | .next t => t
  | .fault _ => s
  | .refused _ => s

/-- The answer in a port's buffer: its result code and payload. -/
def answer (p : Port) (s : State) : Option (ResultCode × List Byte) := (s.port p).answer.map fun a => (a.code, a.payload)

/-- A plain record of a sheet of a disposition, at a placed class. -/
def record (n : Nat) (d : Disposition) (k : Option BinClass) : SheetRecord :=
  { sheet := BitVec.ofNat 16 n, asIs := some .b, disposition := d, placedClass := k, mean := 69, wetspot := 88
    worstZone := 38, total := 42, openCount := 1, thickDev := 70, missing := Quad.of fun _ => false, degraded := false }

/-- An open bin of a class with so many records. -/
def openBin (k : BinClass) (n : Nat) : Bin :=
  { mode := .opened, cls := k, capacity := 200, margin := 10, inbound := 0, reserved := 0
    stack := List.replicate n (record 100 (.bin k) (some k)) }

/-- An entry with four lanes in one state. -/
def entry (n : Nat) (st : EntryState) (l : LaneState) : Entry :=
  { sheet := BitVec.ofNat 16 n, tag := BitVec.ofNat 8 n, state := st, lanes := Quad.of fun _ => Lane.empty l, unscanned := 0 }

/-- A running part with the default settings, six open bins, bin 6 OFFLINE and bin 7 CLOSED, and an empty table. -/
def base : State :=
  { State.reset with
    op := .idle, bus := .idle, settingsValid := true, intake := .running, sheetCounter := 8211
    bins := { Oct.of (fun b => openBin (defaultClass b) 3) with
      v6 := Bin.reset Settings.defaults 6
      v7 := { openBin .reinspect 1 with mode := .closed } } }

/-- The part stopped and quiet. -/
def quietBase : State := { base with intake := .stopped }

/-- A table in conveyor order: one PLACED to bin 1, one GRADED, one GRADING, one READY, one SCANNING. -/
def tabled : State :=
  { base with
    table := [entry 11 (.placed (record 11 (.bin (.grade .b)) (some (.grade .b))) 1) .done,
      entry 12 (.graded (record 12 (.bin (.grade .a)) none)) .done,
      entry 13 .grading .done, entry 14 .ready .done, entry 15 (.scanning 400) .waiting]
    bins := base.bins.set 1 { base.bins.get 1 with inbound := 1 } }

/-- Sixteen entries: one GRADED at the head, the others SCANNING. -/
def fullTable : State :=
  { base with table := entry 1 (.graded (record 1 (.bin (.grade .a)) none)) .done ::
      (List.range 15).map fun i => entry (i + 2) (.scanning 400) .waiting }

/-- A ply on a bin. -/
def ply (g : Grade) (b : Option (Fin 8)) (taken : Bool) : ActivePly :=
  { ply := { grade := g, substitute := false }, bin := b, taken := taken }

/-- An active order of three plies of grade B. -/
def order (slot : Fin 2) (n : Nat) (plies : List ActivePly) (st : ActiveState) (called : Option Nat) : Active :=
  { slot := slot, number := BitVec.ofNat 16 n, cls := .normal, plies := plies, state := st, called := called
    withdrawn := none, hold := some 90000, seq := 57 }

/-- The part with these active orders and this queue, the sheets of their plans reserved. -/
def ordered (active : List Active) (queue : List Order) : State :=
  { base with
    active := active, queue := queue
    bins := Oct.of fun b => { base.bins.get b with reserved := plannedOn active b } }

/-- An order of three plies of a grade. -/
def plain (n : Nat) (k : OrderClass) (g : Grade) : Order :=
  { number := BitVec.ofNat 16 n, cls := k, plies := List.replicate 3 { grade := g, substitute := false } }

/-- Order 310, DRAWING: its first ply taken, its second called on bin 1. -/
def drawing : Active := order 0 310 [ply .b (some 1) true, ply .b (some 1) false, ply .b (some 1) false] .drawing (some 2)

/-- Order 311, PLANNED on bin 1. -/
def planned : Active := order 1 311 [ply .b (some 1) false, ply .c (some 2) false, ply .d (some 4) false] .planned none

/-- Order 312, STALLED: its last ply finds no bin. -/
def stalled : Active := order 0 312 [ply .b (some 1) false, ply .c (some 2) false, ply .d none false] .stalled none

/-- Order 401, whose five plies find no plan while bin 0 holds three sheets. -/
def stuck : Order := { plain 401 .normal .a with plies := List.replicate 5 { grade := .a, substitute := false } }

/-- An order whose hold timer has run out. -/
def ranOut (a : Active) : Active := { a with hold := some 0 }

/-- Order 313, CLOSING on its called ply, which is on bin 1. -/
def closing : Active :=
  { order 0 313 [ply .b (some 1) true, ply .b (some 1) false, ply .b none false] (.closing .cancelled) (some 2) with hold := none }

/-- Order 314: its last ply is called on bin 1. -/
def lastPly : Active := order 0 314 [ply .b (some 1) true, ply .b (some 1) true, ply .b (some 1) false] .drawing (some 3)

/-! ## WellFormed: each check refuses an ill-formed command -/

theorem test_wellFormed_refuses_known_code : (Instr.unknownCommand .line 0x20 (some 1)).wellFormed = false := by decide

theorem test_wellFormed_refuses_stuck_byte : (Instr.unknownCommand .line 0x00 none).wellFormed = false := by decide

theorem test_wellFormed_refuses_short_order : (Instr.order .press 1 310 0 3 [0, 1]).wellFormed = false := by decide

theorem test_wellFormed_refuses_short_image : (Instr.loadEnd (.image [1, 2])).wellFormed = false := by decide

theorem test_wellFormed_refuses_short_readback : (Instr.storeEnd (.readBack [])).wellFormed = false := by decide

theorem test_wellFormed_takes_order : (Instr.order .press 1 310 0 3 [0, 1, 0x12]).wellFormed = true := by decide

/-! ## The wire, byte by byte from Tables 7-8, 7-9 and 7-14 -/

theorem test_frame_set_setting :
    decodeFrame .line (Shift.ofBytes [0x12, 0x41, 0x05, 0x00, 0x00, 0x00, 0x00, 0x0C]) =
      some (.setSetting .line 0x41 0x0500 12) := by
  decide +kernel

theorem test_frame_read_bin_depth_has_nine_bits :
    decodeFrame .stacker (Shift.ofBytes [0x05, 0x07, 0x83, 0x2B]) = some (.readBin .stacker 0x07 3 299) := by
  decide +kernel

theorem test_frame_where : decodeFrame .stacker (Shift.ofBytes [0x20, 0x07, 0x00, 0x00]) = some (.whereTo .stacker 7) := by
  decide +kernel

theorem test_frame_order :
    decodeFrame .press (Shift.ofBytes [0x30, 0x41, 0x01, 0x36, 0x00, 0x03, 0x01, 0x12, 0x03]) =
      some (.order .press 0x41 310 0 3 [0x01, 0x12, 0x03]) := by
  decide +kernel

theorem test_frame_too_long : decodeFrame .press (Shift.ofBytes [0x35, 0x41, 0x01, 0x36, 0x00]) =
    some (.frameRejected .press .length) := by
  decide +kernel

/-- DEFECT, lane 1, tag 21, zone 3, LOOSE_KNOT, 30 mm; the eight bytes sum to 100h. -/
theorem test_message_defect :
    readMessage ([0x11, 0x15, 0x31, 0x00, 0x1E, 0x00, 0x00, 0x8B].map fun b => { byte := b, framed := true }) =
      .defect 1 21 3 .looseKnot 30 := by decide

/-- SAMPLE, lane 1, tag 21, zone 3, raw 384h = 900, thickness 09ECh = 2540, 68 degrees. -/
theorem test_message_sample :
    readMessage ([0x21, 0x15, 0x33, 0x84, 0x09, 0xEC, 0x44, 0xDA].map fun b => { byte := b, framed := true }) =
      .sample 1 21 3 900 2540 68 := by decide

theorem test_message_with_a_bad_sum :
    readMessage ([0x11, 0x15, 0x31, 0x00, 0x1E, 0x00, 0x00, 0x8C].map fun b => { byte := b, framed := true }) =
      .badMessage := by decide

/-! ## The scan link -/

theorem test_defect_of_size_zero_is_stored_as_one :
    ((after (.defect 2 15 5 .split 0) tabled).table.getLast?.map fun e => (e.lanes.get 2).defects) =
      some [{ zone := 5, type := .split, size := 1 }] := by decide

theorem test_sample_clamps_its_temperature :
    ((after (.sample 0 15 7 900 2540 0x80) tabled).table.getLast?.map fun e => (e.lanes.get 0).samples.get 7) =
      some (some { raw := 900, thickness := 2540, temp := -20 }) := by decide

theorem test_laneDone_failed_is_missing_head :
    ((after (.laneDone 3 15 .failed) tabled).table.getLast?.map fun e => (e.lanes.get 3).state) =
      some (.missing .head) := by decide

theorem test_message_for_a_graded_sheet_is_stray : (after (.laneDone 0 12 .ok) tabled).stray = 1 := by decide

theorem test_badMessage_sets_its_flag : ((after .badMessage base).port .line).flags = 0x0008 := by decide

theorem test_scanWindowExpiry_times_lanes_out :
    ((after (.scanWindowExpiry 15) tabled).table.getLast?.map fun e => (e.state, (e.lanes.get 0).state)) =
      some (.ready, .missing .timeout) := by decide

theorem test_gradingComplete_takes_the_next :
    (after .gradingComplete tabled).table.map (fun e => e.state.code) = [4, 3, 3, 2, 0] := by decide

theorem test_gradingComplete_flags_the_head :
    ((after .gradingComplete { base with table := [entry 5 .grading .done] }).port .stacker).flags = 0x0001 := by decide

/-- Table 1-1 and R19, R20: the sheet missed with a full table is counted after the youngest entry. -/
theorem test_missed_sheet_is_counted_after_the_youngest :
    (after (.laneDone 0 99 .ok) fullTable).table.getLast?.map Entry.unscanned = some 1 := by decide

/-! ## Grading: the spec's worked figures -/

/-- Section 2.8: one sample of sheet 4117, hot and cold. -/
theorem test_moisture_of_the_worked_sample :
    (corrected (converted 900 300 560) (correction 68 5), corrected (converted 900 300 560) (correction 4 5)) = (67, 87) := by
  decide

/-- The example settings of Tables 2-7 and 3-2. -/
def example_ram : Settings :=
  { Settings.defaults with
    defectBase := ⟨2, 12, 25, 20, 4, 1, 3⟩, defectSlope := ⟨16, 40, 64, 24, 8, 4, 12⟩
    defectFloor := ⟨10, 6, 3, 0, 20, 30, 40⟩
    limitZone := ⟨20, 60, 200, 600⟩, limitTotal := ⟨60, 200, 800, 3000⟩, limitOpen := ⟨0, 2, 6, 15⟩
    limitThick := ⟨60, 100, 150, 250⟩ }

/-- The defects of sheet 4117 (Table 2-8), no samples. -/
def sheet4117 : Quad Lane :=
  let lane (ds : List Defect) : Lane := { Lane.empty .done with defects := ds }
  ⟨lane [⟨0, .stain, 60⟩], lane [⟨3, .looseKnot, 30⟩, ⟨3, .soundKnot, 25⟩], lane [⟨5, .split, 180⟩],
   lane [⟨7, .soundKnot, 8⟩]⟩

/-- Table 2-10: maxZ, T, K, maxZ', T', Ls. -/
theorem test_scores_of_sheet_4117 :
    (let m := measure example_ram sheet4117; (m.maxZ, m.total, m.openCount, m.maxZ', m.total', m.split)) =
      (87, 129, 2, 8, 12, 180) := by decide

/-- A measurement set as the rows of Table 3-4 give it. -/
def row (n mean wetspot f maxZ total k dev maxZ' total' ls : Nat) : Measurement :=
  { n := n, mean := mean, wetspot := wetspot, thickDev := dev, maxZ := maxZ, total := total, openCount := k
    maxZ' := maxZ', total' := total', split := ls, missing := Quad.of fun _ => false, f := f }

/-- Table 3-4, rows 2, 8, 9, 10, 11, 12 and 13. -/
theorem test_dispositions_of_full_scans :
    [row 32 105 130 0 12 30 0 40 12 30 0, row 32 60 75 0 12 30 0 40 12 30 0, row 32 69 88 0 87 129 2 70 8 12 180,
     row 32 70 95 0 150 400 0 120 150 400 0, row 32 70 95 0 650 760 3 90 40 150 0,
     row 32 70 95 0 700 900 6 80 60 200 120, row 32 70 95 0 87 129 2 120 8 12 180].map (disposition example_ram) =
      [.bin .redry, .bin (.grade .a), .bin .patch, .bin (.grade .c), .bin .patch, .reject, .bin (.grade .c)] := by decide

/-- Table 3-4, rows 1, 3, 5, 6 and 7, under policy LANE; row 4 under policy WHOLE. -/
theorem test_dispositions_of_partial_scans :
    [row 0 0 0 4 0 0 0 0 0 0 0, row 24 69 150 1 38 42 1 70 8 12 0, row 16 70 90 2 10 20 0 50 10 20 0,
     row 24 65 80 1 10 20 0 50 10 20 0, row 24 65 80 1 650 760 3 90 40 110 0].map
        (disposition { example_ram with missingLanePolicy := .lane }) ++
      [disposition example_ram (row 24 69 88 1 38 42 1 70 8 12 0)] =
      [.bin .reinspect, .bin .redry, .bin .reinspect, .bin (.grade .c), .reject, .bin .reinspect] := by decide

/-! ## Windows and commands of every port -/

/-- R148: ANSWER and QUIET, then the answer's tag and code. -/
theorem test_selectFall_offers_the_answer :
    ((after (.selectFall .press) (after (.setAttnMask .press 0x41 0) base)).port .press).window =
      .opened 0x81 (some { tag := 0x41, code := .ok, payload := [] }) 20 := by decide

theorem test_frameRejected_keeps_the_answer :
    answer .press (after (.frameRejected .press .length) (after (.setAttnMask .press 0x40 3) base)) = some (.ok, []) := by
  decide

theorem test_selectTimeout_releases_sdo :
    ((after (.selectTimeout .line) (after (.selectFall .line) base)).port .line).sdo = none := by decide

theorem test_unknownCommand : answer .line (after (.unknownCommand .line 0x99 none) base) = some (.unknownCommand, []) := by
  decide

theorem test_fetch_empties_the_buffer : answer .line (after (.fetch .line 2) (after (.status .line 1) base)) = none := by
  decide

/-- Table 7-7: RUNNING, an empty table, counter 2013h = 8211, settings valid, bins as they stand. -/
theorem test_status :
    answer .line (after (.status .line 1) base) =
      some (.ok, [1, 0, 0, 0x20, 0x13, 0, 0, 0, 0, 0, 0, 0x80, 0, 0, 0]) := by decide

theorem test_readEvents_clears_what_it_names :
    (let s := after (.readEvents .line 1 0x0001) { base with ports := base.ports.set .line { base.port .line with flags := 0x0009 } }
     ((s.port .line).flags, answer .line s)) = (0x0008, some (.ok, [0x00, 0x09])) := by decide

theorem test_setAttnMask_enables : ((after (.setAttnMask .line 1 0x8000) base).port .line).mask = 0x8000 := by decide

/-- Table 4-7: bin 7, CLOSED, with room, its one record at depth 0 present. -/
theorem test_readBin :
    (answer .line (after (.readBin .line 1 7 0) base)).map (fun a => a.2.take 13) =
      some [0xB7, 6, 0, 200, 10, 0, 1, 0, 0, 0, 0, 0, 0] := by decide

theorem test_readSheet_of_no_entry : answer .line (after (.readSheet .line 1 99 0 0) tabled) = some (.noEntry, []) := by
  decide

theorem test_portReset_keeps_the_mask :
    (let s := after (.portReset .line 1) (after (.setAttnMask .line 1 5) base)
     ((s.port .line).mask, answer .line s)) = (5, none) := by decide

/-! ## Commands of the L port -/

theorem test_start_from_the_stacker_has_no_right :
    answer .stacker (after (.start .stacker 1) quietBase) = some (.noRight, []) := by decide

theorem test_start_runs : (after (.start .line 1) quietBase).intake = .running := by decide

theorem test_stop : (after (.stop .line 1) base).intake = .stopped := by decide

/-- R64: LIMIT_TOTAL written as 40000 holds 32767, answered CLAMPED. -/
theorem test_setSetting_clamps :
    (let s := after (.setSetting .line 1 0x0210 40000) quietBase
     (s.ram.limitTotal.a, (answer .line s).map Prod.fst)) = (32767, some .clamped) := by decide

theorem test_setSetting_refuses_a_code :
    answer .line (after (.setSetting .line 1 0x0303 4) quietBase) = some (.badArgument, []) := by decide

theorem test_getSetting : answer .line (after (.getSetting .line 1 0x0501) base) = some (.ok, [0x05, 0x01, 0, 90]) := by
  decide

theorem test_loadSettings_needs_quiet :
    (answer .line (after (.loadSettings .line 1) base), (after (.loadSettings .line 1) quietBase).op) =
      (some (.refused, []), .loading) := by decide

theorem test_storeSettings : (after (.storeSettings .line 1) base).op = .storing := by decide

theorem test_binState_offline_needs_an_empty_bin :
    (answer .line (after (.binState .line 1 7 0) base), (after (.binState .line 1 6 1) base).bins.v6.mode) =
      (some (.refused, []), .opened) := by decide

/-- Table 8-5, steps 5 and 6. -/
def laneDownBase : State :=
  { base with
    health := base.health.set 1 { count := 4, down := true }
    faults := (base.faults.set .laneDown { pending := true, count := 1 }).set .outOfOrder { pending := true, count := 2 }
    firstFault := some { kind := .outOfOrder, sheet := 8210, later := 1 } }

theorem test_readFaults_keeps_a_held_kind :
    (let s := after (.readFaults .line 1 0x0018) laneDownBase
     (s.faults, s.firstFault, answer .line s)) =
      (base.faults.set .laneDown { pending := true, count := 1 }, some { kind := .outOfOrder, sheet := 8210, later := 1 },
        some (.ok, [0x18, 0, 0, 0, 2, 1, 3, 0x20, 0x12, 1])) := by decide

theorem test_laneUp_ends_the_condition :
    (let s := after (.laneUp .line 1 1) (after (.readFaults .line 1 0x0018) laneDownBase)
     (s.faults, s.firstFault, s.faultN)) = (base.faults.set .laneDown { pending := false, count := 1 }, none, false) := by
  decide

/-- Table 9-3 at 112 ms, with a small bin 4: DL2 empties it, inverted; DL5 shows it full. -/
def forklift : State :=
  { base with
    ram := { base.ram with
      lineFunction := (base.ram.lineFunction.set 2 (.inBinEmptied 4)).set 5 (.outBinFull 4)
      lineInvert := base.ram.lineInvert.set 2 true
      binCapacity := base.ram.binCapacity.set 4 5, binMargin := base.ram.binMargin.set 4 1 }
    lines := base.lines.set 2 { pin := false, debounced := some false, differ := 8, latch := false, lapsed := none }
    bins := base.bins.set 4 { openBin (.grade .d) 3 with capacity := 5, margin := 1, inbound := 2 } }

theorem test_readLines_after_the_forklift :
    answer .line (after (.readLines .line 1 4) (after (.lineEdge 2) forklift)) = some (.ok, [0x04, 0x04, 0x00]) := by decide

theorem test_lineEdge_empties_its_bin :
    (let s := after (.lineEdge 2) forklift
     ((s.bins.get 4).count, (s.bins.get 4).inbound, forklift.lineHold, s.lineHold, (s.port .line).flags,
       (s.port .stacker).flags)) = (0, 2, true, false, 0x0090, 0x0080) := by decide

theorem test_debouncedLevelInactive :
    ((after (.debouncedLevelInactive 2) (after (.lineEdge 2) forklift)).lines.get 2) =
      { pin := true, debounced := some false, differ := 0, latch := true, lapsed := none } := by decide

theorem test_resetLine_answers_and_flags :
    (let s := after (.resetLine .line 1) tabled
     (s.table, answer .line s, (s.port .line).flags, (s.port .press).flags)) = ([], some (.ok, []), 0x8000, 0x8000) := by
  decide

/-! ## Commands of the S port -/

/-- Tables 4-5 and 4-6, with a tenth of the counts: capacity 20, margin 1. -/
def walkBins : Oct Bin :=
  let bin (k : BinClass) (m : BinMode) (count inbound : Nat) : Bin :=
    { openBin k count with mode := m, capacity := 20, margin := 1, inbound := inbound }
  ⟨bin (.grade .a) .opened 19 1, bin (.grade .b) .opened 15 0, bin (.grade .c) .opened 19 1, bin (.grade .c) .closed 10 0,
   bin (.grade .d) .opened 3 0, bin .patch .opened 1 0, bin .redry .offline 0 0, bin .reinspect .opened 1 0⟩

theorem test_walk_under_fill :
    [BinClass.grade .a, .grade .c, .grade .b, .redry, .grade .d].map (walk Settings.defaults walkBins) =
      [some 1, none, some 1, none, some 4] := by decide

theorem test_where_places_and_degrades :
    (let s := after (.whereTo .stacker 1) { base with table := [entry 12 (.graded (record 12 (.bin (.grade .a)) none)) .done], bins := walkBins }
     (answer .stacker s, s.table.head?.bind Entry.result |>.map SheetRecord.degraded)) =
      (some (.ok, [0, 1, 0, 12, 0, 1]), some true) := by decide

theorem test_where_counts_unscanned_down :
    (let s := after (.whereTo .stacker 1) { tabled with ahead := 2 }
     (answer .stacker s, s.ahead)) = (some (.ok, [2]), 1) := by decide

theorem test_dropped_answers_bin_and_count :
    (let s := after (.dropped .stacker 1 11) tabled
     (answer .stacker s, (s.bins.get 1).inbound, s.table.length)) = (some (.ok, [1, 0, 4]), 0, 4) := by decide

/-- Table 8-5, step 1. -/
theorem test_dropped_out_of_order :
    (let s := after (.dropped .stacker 1 12) tabled
     (answer .stacker s, s.faults.outOfOrder, s.firstFault, (s.port .line).flags)) =
      (some (.outOfOrder, []), { pending := true, count := 1 }, some { kind := .outOfOrder, sheet := 8210, later := 0 }, 0x0040) := by
  decide

theorem test_divert_of_the_oldest_unplaced :
    (let s := after (.divert .stacker 1 12) tabled
     (answer .stacker s, s.table.length)) = (some (.ok, [1, 3]), 4) := by decide

theorem test_divert_of_the_oldest_placed :
    (let s := after (.divert .stacker 1 11) tabled
     (answer .stacker s, (s.bins.get 1).inbound)) = (some (.ok, [0, 1]), 0) := by decide

/-- Tables 6-5 and 6-6: bin 3 emptied under orders 501 and 502. -/
def emptying : State :=
  let sub (g : Grade) (b : Option (Fin 8)) (taken : Bool) : ActivePly := { ply g b taken with ply := { grade := g, substitute := true } }
  let s501 := order 0 501 [ply .b (some 1) true, sub .c (some 3) false, sub .c (some 3) false, sub .c (some 2) false, ply .b (some 1) false] .drawing (some 2)
  let s502 := order 1 502 [ply .d (some 4) false, ply .c (some 3) false, ply .d (some 4) false] .planned none
  { ordered [s501, s502] [] with
    bins := ⟨openBin (.grade .a) 3, { openBin (.grade .b) 5 with reserved := 1 }, { openBin (.grade .c) 2 with reserved := 1 },
      { openBin (.grade .c) 6 with reserved := 3, inbound := 1 }, { openBin (.grade .d) 20 with reserved := 2 },
      openBin .patch 0, Bin.reset Settings.defaults 6, openBin .reinspect 0⟩ }

theorem test_emptied_settles_two_orders :
    (let s := after (.emptied .stacker 1 3) emptying
     (answer .stacker s, eight.map (fun b => (s.bins.get b).reserved), s.active.map Active.state,
       s.active.map Active.withdrawn, (s.port .press).flags)) =
      (some (.ok, [0, 6]), [0, 2, 2, 0, 2, 0, 0, 0], [.drawing, .stalled], [some 2, none], 0x000A) := by decide

theorem test_emptied_of_an_offline_bin : answer .stacker (after (.emptied .stacker 1 6) base) = some (.refused, []) := by
  decide

/-! ## Commands of the P port -/

/-- Tables 5-3 to 5-5: order 310 planned before and after a drop on bin 1. -/
def order310 : List Ply :=
  [⟨.b, false⟩, ⟨.c, true⟩, ⟨.c, true⟩, ⟨.d, false⟩, ⟨.c, true⟩, ⟨.c, true⟩, ⟨.b, false⟩]

theorem test_planning_order_310 :
    (let bins (n : Nat) : Oct Bin := ⟨openBin (.grade .a) 6, { openBin (.grade .b) n with reserved := 1 },
        { openBin (.grade .c) 4 with reserved := 3 }, { openBin (.grade .c) 2 with mode := .closed },
        openBin (.grade .d) 50, openBin .patch 10, Bin.reset Settings.defaults 6, openBin .reinspect 1⟩
     (planPlies (bins 3) (availableNow (bins 3)) order310, planPlies (bins 4) (availableNow (bins 4)) order310)) =
      (none, some [1, 3, 2, 4, 3, 1, 1]) := by decide

theorem test_order_is_admitted :
    (let s := after (.order .press 1 310 0 3 [0x01, 0x01, 0x12]) base
     (answer .press s, (s.bins.get 1).reserved, (s.port .press).flags)) = (some (.ok, [1, 0x36, 1, 0]), 2, 0x0001) := by decide

theorem test_order_with_an_even_count : answer .press (after (.order .press 1 310 0 4 [0, 1, 1, 1]) base) =
    some (.badArgument, []) := by decide

theorem test_cancel_enters_closing :
    (let s := after (.cancel .press 1 310) (ordered [drawing] [])
     (answer .press s, (s.bins.get 1).reserved, s.active.map Active.state)) =
      (some (.ok, [2, 4]), 1, [.closing .cancelled]) := by decide

theorem test_cancel_of_a_waiting_order :
    (let s := after (.cancel .press 1 400) (ordered [drawing, planned] [plain 400 .normal .d])
     (answer .press s, s.queue, s.finished)) =
      (some (.ok, [0, 5]), [], [{ number := 400, outcome := .aborted .cancelled }]) := by decide

theorem test_holdTimerExpiry_finishes_an_order :
    (let s := after (.holdTimerExpiry 1) (ordered [drawing, ranOut planned] [])
     (s.active.map Active.number, s.finished, eight.map fun b => (s.bins.get b).reserved)) =
      ([310], [{ number := 311, outcome := .aborted .timedOut }], [0, 2, 0, 0, 0, 0, 0, 0]) := by decide

/-- R142: the expiry behind a TAKEN, which restarts the timer, or behind a CANCEL, whose slot a new order takes, does
not occur; the one behind a NEXT_PLY does. -/
theorem test_holdTimerExpiry_behind_a_command :
    (let behind (c : Instr) (s : State) : List (Word × ActiveState) :=
       (after (.holdTimerExpiry 0) (after c s)).active.map fun a => (a.number, a.state)
     [behind (.taken .press 1 310) (ordered [ranOut drawing] []),
      behind (.cancel .press 1 312) (ordered [ranOut stalled] [plain 400 .normal .c]),
      behind (.nextPly .press 1 311) (ordered [{ ranOut planned with slot := 0 }] [])]) =
      [[(310, .drawing)], [(400, .planned)], [(311, .closing .timedOut)]] := by decide

theorem test_nextPly_calls :
    (let s := after (.nextPly .press 1 311) (ordered [planned] [])
     (answer .press s, s.active.map Active.state)) = (some (.ok, [1, 1, 1, 1]), [.drawing]) := by decide

theorem test_nextPly_waits : answer .press (after (.nextPly .press 1 312)
    (ordered [{ stalled with plies := [ply .d none false, ply .c (some 2) false, ply .b (some 1) false] }] [])) =
      some (.wait, [1]) := by decide

theorem test_taken_pops_the_top_record :
    (let s := after (.taken .press 1 310) (ordered [drawing] [])
     ((answer .press s).map (fun a => (a.1, a.2.take 5)), (s.bins.get 1).count, (s.bins.get 1).reserved)) =
      (some (.ok, [2, 1, 1, 0, 100]), 2, 1) := by decide

theorem test_taken_late :
    (let s := after (.taken .press 1 313) (ordered [closing] [])
     ((answer .press s).map (fun a => (a.1, a.2.take 3)), s.active, s.finished)) =
      (some (.late, [2, 1, 2]), [], [{ number := 313, outcome := .aborted .cancelled }]) := by decide

theorem test_uncall_goes_back_to_planned :
    (let s := after (.uncall .press 1 311) (after (.nextPly .press 1 311) (ordered [planned] []))
     (answer .press s, s.active.map Active.state)) = (some (.ok, [1, 0xFF]), [.planned]) := by decide

/-- R115, Table 7-11: order 310 in slot 0, DRAWING, 90 s left. -/
theorem test_orderStatus :
    answer .press (after (.orderStatus .press 1 310) (ordered [drawing] [])) =
      some (.ok, [1, 0x36, 2, 0, 0, 57, 0, 3, 1, 2, 0, 90, 0xFF, 0x91, 0x11, 0x11, 0, 0, 0, 0, 0, 0, 0, 0, 0, 0, 0, 0]) := by
  decide

/-! ## Resets and the settings store -/

theorem test_lineReset_keeps_the_stacks :
    (let s := after (.lineReset true) (ordered [drawing] [])
     ((s.bins.get 1).count, (s.bins.get 1).reserved, s.active, s.lrstLow)) = (3, 0, [], true) := by decide

theorem test_powerOnReset_releases_every_output :
    (let s := after .powerOnReset forklift
     (s.porstLow, s.settingsValid, s.lineDrive 5)) = (true, false, none) := by decide

theorem test_powerOnLoad_begins_the_load : (after .powerOnLoad (after .powerOnReset base)).op = .loading := by decide

theorem test_loadEnd_without_an_eeprom :
    (let s := after (.loadEnd .noAck) State.reset
     (s.settingsValid, s.faults.settingsInvalid, s.firstFault, (s.port .line).flags)) =
      (false, { pending := true, count := 1 }, some { kind := .settingsInvalid, sheet := 65535, later := 0 }, 0x0060) := by decide

theorem test_storeEnd_failing :
    (let s := after (.storeEnd .waitPassed) { base with op := .storing }
     (s.faults.storeFailed, s.settingsValid, (s.port .line).flags)) = ({ pending := true, count := 1 }, true, 0x0060) := by decide

/-! ## Witnesses: for each statement with hypotheses, states and operands that meet them -/

/-- Every setting is in the list of them. -/
theorem mem_allSettings (x : Setting) : x ∈ allSettings := by
  cases x <;> first | decide | (rename_i k; cases k <;> decide) | (rename_i k; revert k; decide)

/-- The settings are good where each of the list is. -/
theorem settings_good (s : State) (h : ∀ x ∈ allSettings, x.domain.holds (s.ram.get x) = true) : SettingsInv s :=
  fun x => h x (mem_allSettings x)

/-- The default settings are good. -/
theorem default_settings_good : SettingsInv base := settings_good base (by decide)

/-- The faults of the running part, and of the part with a lane DOWN, are good. -/
theorem faults_good : FaultInv base ∧ FaultInv laneDownBase := by
  refine ⟨⟨by decide, by decide, by decide, ?_, by decide, by decide⟩, by decide, by decide, by decide, ?_, by decide, by decide⟩ <;>
    (intro k; cases k <;> decide)

/-- A lane that holds so many defects. -/
def holding (n : Nat) (l : LaneState) : Lane := { Lane.empty l with defects := List.replicate n ⟨0, .stain, 60⟩ }

/-- The older entries of `tabled`. -/
def olderEntries : List Entry := tabled.table.take 4

/-- A SCANNING entry whose lane 3 is as given and whose other lanes are in one state. -/
def scanningEntry (l : LaneState) (x : Lane) : Entry :=
  { entry 15 (.scanning 400) l with lanes := (Quad.of fun _ => Lane.empty l).set 3 x }

/-- A table that ends in that entry, the engine busy before it. -/
def scanningAfter (e : Entry) : State := { tabled with table := olderEntries ++ [e] }

/-- A table of that entry alone, the engine free. -/
def scanningAlone (e : Entry) : State := { base with table := [e] }

/-- Every timer about to run out, an engine at work, a message begun, and a store that waits at the EEPROM. -/
def timed : State :=
  { ordered [{ drawing with hold := some 1 }] [] with
    rx := [{ byte := 0x11, framed := true }], op := .storing, bus := .waiting 0 19
    table := [entry 13 .grading .done, entry 15 (.scanning 1) .waiting]
    ports := base.ports.set .line { base.port .line with window := .opened 0x80 none 1 }
    lines := (base.lines.set 2 { pin := true, debounced := some false, differ := 7, latch := false, lapsed := none }).set 3
      { pin := false, debounced := some true, differ := 7, latch := false, lapsed := none } }

theorem witness_StepRunsTheFrontCommandOrIdles :
    (base.pending = [] ∧ base.inputs = []) ∧
    (let s : State := { base with inputs := [.pin 2 true, .ms] }
     s.pending = [] ∧ s.inputs = .pin 2 true :: [.ms]) ∧
    (base.porstLow = false ∧ base.rx = [] ∧ timed.porstLow = false ∧ timed.rx ≠ [] ∧ timed.bus = .waiting 0 19 ∧
      base.bus ≠ .waiting 0 19) ∧
    ((State.powerOn base).porstLow = true ∧ base.lrstLow = false) := by decide

/-- R29, R15, R128, R152, R181, R195: what the next millisecond brings. -/
theorem test_ms_ends_every_timer :
    (timed.takeInput .ms).pending =
      [.gradingComplete, .scanWindowExpiry 15, .holdTimerExpiry 0, .selectTimeout .line, .lineEdge 2,
        .debouncedLevelInactive 3, .storeEnd .waitPassed] := by decide

theorem witness_FrameIsTakenAsItsCommand :
    (Instr.fetch .line 1).wellFormed = true ∧ frameOf (.fetch .line 1) = some (.line, 0x01 :: 1 :: List.replicate 30 0) ∧
    (Instr.order .press 1 310 0 3 [0, 1, 0x12]).wellFormed = true ∧
    frameOf (.order .press 1 310 0 3 [0, 1, 0x12]) = some (.press, [0x30, 1, 0x01, 0x36, 0, 3, 0, 1, 0x12]) ∧
    (Instr.readBin .line 1 0x7F 0x1FF).wellFormed = true ∧
    frameOf (.readBin .line 1 0x7F 0x1FF) = some (.line, [0x05, 1, 0xFF, 0xFF]) := by decide

theorem witness_MessageIsReadAsItsCommand :
    messageOf (.defect 1 21 3 .looseKnot 30) = some [0x11, 0x15, 0x31, 0x00, 0x1E, 0x00, 0x00, 0x8B] ∧
    (messageOf (.sample 3 255 7 0xFFF 0x1FFF 0x80)).isSome ∧ (messageOf (.laneDone 0 0 .failed)).isSome ∧
    messageOf .badMessage = none := by decide

/-- An open window on the P port that has received these bytes, its clock at a level. -/
def window (f : List Byte) (clockHigh : Bool) : State :=
  base.setPort .press { base.port .press with
    window := .opened 0x80 none 20, shift := Shift.ofBytes f, sck := clockHigh }

/-- The state after some inputs, none of them waiting for a command. -/
def taking (is : List Input) (s : State) : State := is.foldl State.takeInput s

/-- R146: the bit on SDO changes at the falling clock edge, and the frame takes its bit at the rising one. -/
theorem test_sdo_changes_at_the_falling_edge :
    (let s := after (.selectFall .press) (base.setPort .press { base.port .press with frameErr := true })
     let seen (is : List Input) := (((taking is s).port .press).sdo, ((taking is s).port .press).shift.bits)
     [seen [], seen [.clockRise .press true], seen [.clockRise .press true, .clockFall .press],
       seen [.clockRise .press true, .clockFall .press, .clockRise .press true, .clockFall .press]]) =
      [(some false, 0), (some false, 1), (some false, 1), (some true, 2)] := by decide

/-- R149: the rise of select hands on the command of the frame. -/
theorem test_rise_of_select_hands_on_the_command :
    ((taking [.selectRise .press] (window [0x02, 7, 0, 0] false)).pending,
      (taking [.selectRise .press] (window [] false)).pending) = ([.status .press 7], []) := by
  decide +kernel

theorem witness_RiseOfSelectClassifiesTheFrame :
    (((window [] false).port .press).window = .opened 0x80 none 20 ∧
      decodeFrame .press ((window [] false).port .press).shift = none ∧
      ((window [] false).port .press).sck = false ∧ ((window [2] true).port .press).sck = true ∧
      decodeFrame .press ((window [0x02, 7, 0, 0] false).port .press).shift = some (.status .press 7) ∧
      (base.port .press).window = .idle) ∧
    [true].length % 8 ≠ 0 ∧ ([0x00] : List Byte) ≠ [] ∧ (∀ b ∈ ([0x00] : List Byte), b = 0x00) ∧
    (∀ b ∈ List.replicate 33 (0xFF : Byte), b = 0xFF) ∧
    (let long : List Byte := 0x02 :: 1 :: List.replicate 31 0
     (∃ b ∈ long, b ≠ 0x00) ∧ (∃ b ∈ long, b ≠ 0xFF) ∧ frameLength long = some 4 ∧ 4 ≠ long.length) ∧
    (let exact : List Byte := [0x02, 1, 0, 0]
     (∃ b ∈ exact, b ≠ 0x00) ∧ (∃ b ∈ exact, b ≠ 0xFF) ∧ frameLength exact = some exact.length) ∧
    (let unknown : List Byte := [0x99]
     (∃ b ∈ unknown, b ≠ 0x00) ∧ (∃ b ∈ unknown, b ≠ 0xFF) ∧ frameLength unknown = none) := by
  decide +kernel

theorem witness_BadMessagesAreExactlyCounted : base.porstLow = false := by decide

theorem witness_ReadingsAreStoredInTheirLane :
    (let e := scanningEntry .waiting (holding 23 .opened)
     let s := scanningAfter e
     s.porstLow = false ∧ s.table = olderEntries ++ e :: [] ∧ (∀ x ∈ olderEntries ++ [], x.tag ≠ e.tag) ∧
     e.state = .scanning 400 ∧ (e.lanes.get 3).state.final = false ∧ (e.lanes.get 3).defects.length < 24) ∧
    (let e := scanningEntry .waiting (holding 24 .opened)
     let s := scanningAfter e
     s.porstLow = false ∧ s.table = olderEntries ++ e :: [] ∧ (∀ x ∈ olderEntries ++ [], x.tag ≠ e.tag) ∧
     e.state = .scanning 400 ∧ (e.lanes.get 3).state.final = false ∧ (0 : Fin 4) ≠ 3 ∧
     (e.lanes.get 0).state.final = false ∧ 24 ≤ (e.lanes.get 3).defects.length) := by decide

theorem witness_LastFinalLaneMakesTheEntryReady :
    (let e := scanningEntry .done (holding 24 .opened)
     let s := scanningAfter e
     s.porstLow = false ∧ s.table = olderEntries ++ e :: [] ∧ (∀ x ∈ olderEntries ++ [], x.tag ≠ e.tag) ∧
     e.state = .scanning 400 ∧ (e.lanes.get 3).state.final = false ∧
     (∀ other, other ≠ 3 → (e.lanes.get other).state.final = true) ∧ 24 ≤ (e.lanes.get 3).defects.length ∧
     (∃ x ∈ olderEntries ++ [], x.state = .grading)) ∧
    (let e := scanningEntry .done (Lane.empty .waiting)
     let s := scanningAlone e
     s.porstLow = false ∧ s.table = [] ++ e :: [] ∧ e.state = .scanning 400 ∧ (e.lanes.get 3).state.final = false ∧
     (∀ other, other ≠ 3 → (e.lanes.get other).state.final = true)) := by decide

theorem witness_ScanWindowExpiryTimesOutTheLanes :
    (let e := scanningEntry .done (Lane.empty .opened)
     let s := scanningAfter e
     s.porstLow = false ∧ s.table = olderEntries ++ e :: [] ∧ (∀ x ∈ olderEntries ++ [], x.tag ≠ e.tag) ∧
     e.state = .scanning 400 ∧ (∃ x ∈ olderEntries ++ [], x.state = .grading)) ∧
    (let e := scanningEntry .waiting (Lane.empty .waiting)
     let s := scanningAlone e
     s.porstLow = false ∧ s.table = [] ++ e :: [] ∧ e.state = .scanning 400) := by decide

/-- A table of one SCANNING entry, its lane 3 in a state. -/
def laneAt (l : LaneState) : State := scanningAlone (scanningEntry .waiting (Lane.empty l))

/-- A RUNNING intake that holds a suspended tag for its resuming entry, and a retired tag for its heir. -/
def resumed : State := { laneAt .waiting with
  suspended := some 77, resuming := some 15, retired := some { tag := 78, heir := some 15 } }

theorem witness_DiscardedMessagesAreCountedOrNot :
    base.porstLow = false ∧ ScanMessage (.laneDone 3 15 .ok) 3 15 ∧
    (∃ e, tabled.entryOf 12 = some e ∧ e.isScanning = false) ∧
    (∃ e, (laneAt .done).entryOf 15 = some e ∧ (e.lanes.get 3).state = .done) ∧
    (∃ e, (laneAt (.missing .head)).entryOf 15 = some e ∧ (e.lanes.get 3).state = .missing .head) ∧
    (quietBase.entryOf 99 = none ∧ quietBase.intake = .stopped) ∧
    (∃ e, (laneAt (.missing .overflow)).entryOf 15 = some e ∧ e.isScanning = true ∧
      (e.lanes.get 3).state = .missing .overflow) ∧
    (∃ e, (laneAt (.missing .down)).entryOf 15 = some e ∧ e.isScanning = true ∧
      (e.lanes.get 3).state = .missing .down) ∧
    (resumed.entryOf 77 = none ∧ resumed.intake ≠ .stopped ∧ resumed.suspended = some 77) ∧
    (resumed.entryOf 78 = none ∧ ∃ r, resumed.retired = some r ∧ r.tag = 78) :=
  ⟨by decide, .inr (.inr ⟨_, rfl⟩), ⟨_, rfl, by decide⟩, ⟨_, rfl, by decide⟩, ⟨_, rfl, by decide⟩, by decide,
    ⟨_, rfl, by decide⟩, ⟨_, rfl, by decide⟩, by decide, by decide, _, rfl, by decide⟩

/-- Fifteen entries, a lane DOWN, and a SUSPENDED intake. -/
def lastRoom : State :=
  { fullTable with
    table := fullTable.table.take 15, intake := .suspended, suspended := some 99
    retired := some { tag := 98, heir := none }
    health := base.health.set 1 { count := 4, down := true } }

/-- Every lane but lane 0 DOWN. -/
def downBut (s : State) : State :=
  { s with health := (Quad.of fun _ => { count := 4, down := true }).set 0 { count := 0, down := false } }

theorem witness_NewTagOpensAnEntry :
    (base.porstLow = false ∧ ScanMessage (.laneDone 0 16 .ok) 0 16 ∧ TableInv base ∧ IntakeInv base ∧
      base.entryOf 16 = none ∧ base.intake ≠ .stopped ∧ base.suspended ≠ some 16 ∧
      (∀ r, base.retired = some r → r.tag ≠ 16) ∧ base.table.length < 16) ∧
    (lastRoom.porstLow = false ∧ TableInv lastRoom ∧ IntakeInv lastRoom ∧ lastRoom.entryOf 16 = none ∧
      lastRoom.intake ≠ .stopped ∧ lastRoom.suspended ≠ some 16 ∧ (∀ r, lastRoom.retired = some r → r.tag ≠ 16) ∧
      lastRoom.table.length = 15 ∧ (lastRoom.health.get 1).down = true ∧
      ∃ r, lastRoom.retired = some r ∧ r.heir = none) ∧
    (ScanMessage (.defect 0 16 7 .split 0) 0 16 ∧ ScanMessage (.sample 0 16 7 900 2540 0x80) 0 16 ∧
      (base.health.get 0).down = false) ∧
    (TableInv resumed ∧ resumed.entryOf 16 = none ∧ resumed.suspended ≠ some 16 ∧
      ∃ r, resumed.retired = some r ∧ r.heir ≠ none ∧ r.tag ≠ 16) ∧
    (let s := downBut { tabled with retired := some { tag := 98, heir := none } }
     TableInv s ∧ IntakeInv s ∧ s.entryOf 16 = none ∧ (∃ x ∈ s.table, x.state = .grading) ∧
     (after (.laneDone 0 16 .ok) s).table.getLast?.map Entry.allFinal = some true ∧
     (after (.laneDone 0 16 .ok) s).retired = none) ∧
    (let s := downBut base
     (∀ x ∈ s.table, x.state ≠ .grading) ∧
     (after (.laneDone 0 16 .failed) s).table.map Entry.allFinal = [true]) :=
  ⟨⟨by decide, .inr (.inr ⟨_, rfl⟩), by decide, by decide, by decide, by decide, by decide, (by rintro r ⟨⟩), by decide⟩,
    ⟨by decide, by decide, by decide, by decide, by decide, by decide, (by rintro r ⟨⟩; decide), by decide, by decide,
      _, rfl, by decide⟩,
    ⟨.inl ⟨_, _, _, rfl⟩, .inr (.inl ⟨_, _, _, _, rfl⟩), by decide⟩,
    ⟨by decide, by decide, by decide, _, rfl, by decide, by decide⟩,
    by decide, by decide⟩

/-- Sixteen PLACED entries. -/
def placedTable : State :=
  { base with
    ahead := 254
    table := (List.range 16).map fun i =>
      entry (i + 1) (.placed (record i (.bin (.grade .b)) (some (.grade .b))) 1) .done }

theorem witness_NewTagAtAFullTableIsAMissedSheet :
    (∃ y, fullTable.porstLow = false ∧ ScanMessage (.defect 0 99 0 .split 5) 0 99 ∧ TableInv fullTable ∧
      fullTable.table = fullTable.table.take 15 ++ [y] ∧ fullTable.table.length = 16 ∧ fullTable.entryOf 99 = none ∧
      fullTable.intake ≠ .stopped ∧ fullTable.suspended ≠ some 99 ∧
      (∀ r, fullTable.retired = some r → r.tag ≠ 99) ∧ y.isPlaced = false ∧ y.unscanned < 254) ∧
    (∃ y, TableInv placedTable ∧ placedTable.table = placedTable.table.take 15 ++ [y] ∧
      placedTable.entryOf 99 = none ∧ placedTable.intake ≠ .stopped ∧ y.isPlaced = true ∧ 254 ≤ placedTable.ahead) :=
  ⟨⟨_, by decide, .inl ⟨_, _, _, rfl⟩, by decide, rfl, by decide, by decide, by decide, by decide, (by rintro r ⟨⟩),
      by decide, by decide⟩,
    _, by decide, rfl, by decide, by decide, by decide, by decide⟩

/-- An entry in GRADING whose lanes 1 and 2 failed. -/
def twoFail : Entry :=
  { entry 5 .grading .done with lanes := ⟨Lane.empty .done, Lane.empty (.missing .head), Lane.empty (.missing .timeout), Lane.empty .done⟩ }

/-- Lanes that have failed three times when that entry completes. -/
def failingLanes : State := { scanningAlone twoFail with health := Quad.of fun _ => { count := 3, down := false } }

theorem witness_GradingCompletesWhole :
    (∃ e, tabled.porstLow = false ∧ TableInv tabled ∧
      tabled.table = tabled.table.take 2 ++ e :: tabled.table.drop 3 ∧ e.state = .grading) ∧
    (∃ x, tabled.table.take 2 ++ entry 13 (.graded (record 13 .reject none)) .done :: tabled.table.drop 3 =
        (tabled.table.take 2 ++ [entry 13 (.graded (record 13 .reject none)) .done]) ++ x :: tabled.table.drop 4 ∧
      x.state = .ready ∧
      ∀ y ∈ tabled.table.take 2 ++ [entry 13 (.graded (record 13 .reject none)) .done], y.state ≠ .ready) ∧
    (let s := scanningAlone (entry 5 .grading (.missing .head))
     TableInv s ∧ s.table = [] ++ entry 5 .grading (.missing .head) :: [] ∧
     (entry 5 .grading (.missing .head)).state = .grading) ∧
    (failingLanes.porstLow = false ∧ TableInv failingLanes ∧ failingLanes.table = [] ++ twoFail :: [] ∧
      twoFail.state = .grading ∧ (∀ j, (failingLanes.faults.get j).pending = false) ∧
      (failingLanes.health.get 1).down = false ∧ failingLanes.ram.laneDownCount ≤ min 15 ((failingLanes.health.get 1).count + 1)) ∧
    (laneDownBase.faults.get .laneDown).pending = true ∧
    (laneDownBase.faults.set .laneDown { pending := false, count := 0 } |>.get .outOfOrder).pending = true :=
  ⟨⟨_, by decide, by decide, rfl, by decide⟩, ⟨_, rfl, by decide, by decide⟩, by decide,
    ⟨by decide, by decide, by decide, by decide, (by intro j; cases j <;> decide), by decide, by decide⟩, by decide, by decide⟩

/-- R63, R171, R172: two lanes that go DOWN at one completion are two occurrences, and one record. -/
theorem test_two_lanes_go_down_at_once :
    (let s := after .gradingComplete failingLanes
     (s.health.get 1, s.faults.laneDown, s.firstFault, (s.port .line).flags)) =
      ({ count := 4, down := true }, { pending := true, count := 2 }, some { kind := .laneDown, sheet := 8210, later := 0 },
        0x0046) := by decide

/-- Settings of the lanes at the ends of their ranges. -/
def extremes : Settings :=
  { Settings.defaults with laneZero := ⟨0, 4095, 0, 300⟩, laneSpan := ⟨1023, 0, 512, 560⟩, laneTempco := ⟨63, 0, 16, 5⟩ }

theorem witness_MoistureOfASample :
    (∀ k : Fin 4, extremes.laneZero.get k ≤ 4095 ∧ extremes.laneSpan.get k ≤ 1023 ∧ extremes.laneTempco.get k ≤ 63) ∧
    (∀ x ∈ [{ raw := 4095, thickness := 0, temp := -20 }, ({ raw := 0, thickness := 0, temp := 120 } : Sample)],
      x.raw ≤ 4095 ∧ -20 ≤ x.temp ∧ x.temp ≤ 120) := by decide

/-- Lanes with samples in the slots of zones 0 and 7 of lane 0, and a lane that is not DONE. -/
def sampled : Quad Lane :=
  ⟨{ Lane.empty .done with
      samples := ((Oct.of fun _ => none).set 0 (some { raw := 900, thickness := 2540, temp := 68 })).set 7
        (some { raw := 4095, thickness := 8191, temp := -20 }) },
   holding 24 .done, holding 3 (.missing .head), Lane.empty .done⟩

theorem witness_SheetMeanAndWetspot :
    ((List.finRange 4).filter fun k => (sampled.get k).state = .done).flatMap (fun k =>
      (List.finRange 8).filterMap fun z => ((sampled.get k).samples.get z).map (moisture example_ram k)) ≠ [] := by decide

theorem witness_MeasurementSetIsOfTheDoneLanes :
    (∀ x ∈ allSettings, x.domain.holds (example_ram.get x) = true) ∧
    (∀ k, (sampled.get k).defects.length ≤ 24 ∧ (∀ d ∈ (sampled.get k).defects, d.size ≤ 1023) ∧
      ∀ z, ∀ x ∈ (sampled.get k).samples.get z, x.thickness ≤ 8191) ∧
    (let other := sampled.set 2 (Lane.empty (.missing .timeout))
     other ≠ sampled ∧ ∀ k, ((sampled.get k).state = .done ↔ (other.get k).state = .done) ∧
      ((sampled.get k).state = .done → sampled.get k = other.get k)) ∧
    (∀ k, (sampled.get k).state.final = true) := by decide

/-- The premises of each clause hold of a row of Table 3-4. -/
theorem witness_GradeDecisionBySteps :
    let lane := { example_ram with missingLanePolicy := .lane }
    (row 0 0 0 4 0 0 0 0 0 0 0).n = 0 ∧
    example_ram.meanLimit < (row 32 105 130 0 12 30 0 40 12 30 0).mean ∧
    ((row 24 69 88 1 38 42 1 70 8 12 0).f ≠ 0 ∧ example_ram.missingLanePolicy = .whole) ∧
    lane.maxMissing < (row 16 70 90 2 10 20 0 50 10 20 0).f ∧
    (asIsGrade lane (row 24 65 80 1 10 20 0 50 10 20 0) = some .a ∧ Grade.a.code < lane.partialCap.code) ∧
    asIsGrade lane (row 24 65 80 1 650 760 3 90 40 110 0) = none ∧
    (asIsGrade example_ram (row 32 60 75 0 12 30 0 40 12 30 0) = some .a ∧ Grade.a.code ≤ example_ram.patchTarget.code) ∧
    (asIsGrade example_ram (row 32 69 88 0 87 129 2 70 8 12 180) = some .c ∧ example_ram.patchTarget.code < Grade.c.code) ∧
    asIsGrade example_ram (row 32 70 95 0 650 760 3 90 40 150 0) = none := by decide

theorem witness_SelectFallFixesTheOutput :
    base.porstLow = false ∧ (base.port .line).answer = none ∧
    (∀ a ∈ ((after (.readSheet .line 1 12 0 0) tabled).port .line).answer, a.payload.length = 29) ∧
    ((window [2] true).port .press).window = .opened 0x80 none 20 ∧ ((window [2] true).port .press).sck = true ∧
    ((window [2] false).port .press).sck = false := by decide

theorem witness_RejectedFrameKeepsTheAnswer : forklift.porstLow = false := by decide

theorem witness_SelectTimeoutReleasesThePort : tabled.porstLow = false := by decide

theorem witness_FramesAreTestedInOrder :
    base.porstLow = false ∧ stationFrame (.start .press 0x41) = some (.press, 0x41) ∧
    (∃ q, ownPort (.start .press 0x41) = some q ∧ q ≠ .press) ∧
    (let s : State := { base with lrstLow := true }
     s.porstLow = false ∧ s.lrstLow = true ∧ actsInLineReset (.start .line 1) = false ∧
     actsInLineReset (.setAttnMask .press 1 0) = false) ∧
    (∀ q, ownPort (.start .line 1) = some q → q = .line) ∧
    (∀ q, ownPort (.setAttnMask .press 1 0) = some q → q = .press) :=
  ⟨by decide, by decide, ⟨_, rfl, by decide⟩, by decide, (by rintro q ⟨⟩; rfl), by rintro q ⟨⟩⟩

theorem witness_StationFramesAreAnsweredOnTheirPort :
    base.porstLow = false ∧ stationFrame (.whereTo .stacker 1) = some (.stacker, 1) ∧
    (Instr.whereTo .stacker 1 ≠ .resetLine .stacker 1) ∧ stationFrame (.resetLine .line 1) = some (.line, 1) := by decide

theorem witness_RefusedCommandsChangeNothing :
    (let s : State := { base with settingsValid := false }
     let c : Instr := .start .line 1
     s.porstLow = false ∧ stationFrame c = some (.line, 1) ∧
     ((after c s).port .line).answer = some { tag := 1, code := .refused, payload := [] }) ∧
    (let c : Instr := .dropped .stacker 1 12
     stationFrame c = some (.stacker, 1) ∧
     ((after c tabled).port .stacker).answer = some { tag := 1, code := .outOfOrder, payload := [] }) ∧
    (∃ t, exec (.start .line 1) { base with settingsValid := false } = .next t) ∧
    (∃ t, exec (.dropped .stacker 1 12) tabled = .next t) :=
  ⟨by decide, by decide, ⟨_, rfl⟩, _, rfl⟩

theorem witness_FetchEmptiesTheAnswerBuffer :
    (List.replicate 30 (0xA5 : Byte)).length = 30 ∧ ({ base with lrstLow := true } : State).porstLow = false := by decide

theorem witness_StatusReportsThePart : ({ base with lrstLow := true, op := .storing } : State).porstLow = false := by decide

theorem witness_ReadBinReportsTheRecord :
    NoReset base ∧ 8 ≤ (8 : BitVec 7).toNat ∧ 300 ≤ (300 : BitVec 9).toNat ∧
    ((7 : BitVec 7).toNat = (7 : Fin 8).val ∧ (299 : BitVec 9).toNat ≤ 299) ∧
    (record 1 .reject none).thickDev < 8192 := by decide

/-- R164: the record of sheet 4117 at completion. -/
theorem test_record_of_sheet_4117 :
    SheetRecord.bytes { sheet := 4117, asIs := some .c, disposition := .bin .patch, placedClass := none, mean := 69
                        wetspot := 88, worstZone := 87, total := 129, openCount := 2, thickDev := 70
                        missing := Quad.of fun _ => false, degraded := false } =
      [0x10, 0x15, 0x24, 0x0F, 0x00, 0x45, 0x00, 0x58, 0x00, 0x57, 0x00, 0x81, 0x02, 0x00, 0x46] := by decide

theorem witness_ReadSheetReportsTheEntry :
    NoReset tabled ∧ (∀ e ∈ tabled.table, e.sheet ≠ 99) ∧
    (∃ e, tabled.table = tabled.table.take 1 ++ e :: tabled.table.drop 2 ∧ e.sheet = 12 ∧
      (∀ x ∈ tabled.table.take 1, x.sheet ≠ 12)) ∧
    ((3 : Fin 4).val = (0xFF : Byte).toNat / 64 ∧ 3 ≤ (3 : Byte).toNat ∧
      (7 : Fin 8).val = (3 : Fin 4).val + (if (0xFF : Byte).getLsbD 0 then 4 else 0)) :=
  ⟨by decide, by decide, ⟨_, rfl, by decide, by decide⟩, by decide⟩

theorem witness_EventFlagsAreReadMaskedAndReset : base.porstLow = false ∧ base.lrstLow = false := by decide

theorem witness_IntakeAndSettingsOperationsBegin :
    quietBase.quiet = true ∧ NoReset base ∧ base.op = .idle ∧ NoReset { base with op := .storing } ∧
    ({ base with op := .storing } : State).op ≠ .idle := by decide

/-- A number, a code, a bin setting of an OFFLINE bin, and a line function; the number below and above its range. -/
theorem witness_SetSettingInstallsOneSetting :
    (NoReset quietBase ∧ SettingsInv quietBase ∧ BinInv quietBase ∧ quietBase.op = .idle) ∧
    ((0x0300 : Word).toNat = Setting.nominalThick.key ∧ Setting.nominalThick.kind = .grading ∧ quietBase.quiet = true ∧
      ∃ low high, Setting.nominalThick.domain = .range low high ∧ (0 : BitVec 32).toNat < low ∧
        high < (0xFFFFFFFF : BitVec 32).toNat) ∧
    ((0x0303 : Word).toNat = Setting.patchTarget.key ∧
      ∃ cs, Setting.patchTarget.domain = .codes cs ∧ (3 : BitVec 32).toNat ∈ cs) ∧
    ((0x0616 : Word).toNat = (Setting.binCapacity 6).key ∧ (Setting.binCapacity 6).kind = .bin 6 ∧
      (quietBase.bins.get 6).mode = .offline) ∧
    ((0x0510 : Word).toNat = (Setting.lineFunction 0).key ∧ (Setting.lineFunction 0).kind = .line) :=
  ⟨⟨by decide, default_settings_good, by decide, by decide⟩, ⟨by decide, by decide, by decide, _, _, rfl, by decide, by decide⟩,
    ⟨by decide, _, rfl, by decide⟩, by decide, by decide⟩

theorem witness_SettingsAreRefusedOrRead :
    (NoReset { base with op := .storing } ∧ ({ base with op := .storing } : State).op ≠ .idle) ∧
    (∀ x : Setting, x.key ≠ (0x0107 : Word).toNat) ∧
    (NoReset base ∧ base.op = .idle ∧ Setting.nominalThick.key = (0x0300 : Word).toNat ∧
      Setting.nominalThick.kind = .grading ∧ base.quiet = false) ∧
    ((Setting.binMargin 0).kind = .bin 0 ∧ (base.bins.get 0).mode ≠ .offline) ∧
    (quietBase.quiet = true ∧ Setting.patchTarget.kind = .grading ∧
      ∃ cs, Setting.patchTarget.domain = .codes cs ∧ (4 : BitVec 32).toNat ∉ cs) :=
  ⟨by decide, fun x h => (by decide : ∀ x ∈ allSettings, x.key ≠ (0x0107 : Word).toNat) x (mem_allSettings x) h,
    by decide, by decide, by decide, by decide, _, rfl, by decide⟩

/-- Bin 0 OPEN and holding sheets, bin 5 OPEN and empty, bin 6 OFFLINE, bin 7 CLOSED. -/
def binModes : State := { base with bins := base.bins.set 5 (openBin .patch 0) }

theorem witness_BinStateFollowsItsTable :
    NoReset binModes ∧ 8 ≤ (8 : Byte).toNat ∧ 3 ≤ (3 : Byte).toNat ∧
    (BinMode.offline.code = (0 : Byte).toNat ∧ BinMode.opened.code = (1 : Byte).toNat ∧
      BinMode.closed.code = (2 : Byte).toNat ∧ (7 : Byte).toNat = (7 : Fin 8).val) ∧
    ({ binModes with op := .loading } : State).op ≠ .idle ∧
    ((binModes.bins.get 0).mode = .opened ∧ (binModes.bins.get 0).count ≠ 0 ∧ binModes.op = .idle) ∧
    ((binModes.bins.get 5).mode = .opened ∧ (binModes.bins.get 5).count = 0 ∧ (binModes.bins.get 5).inbound = 0 ∧
      (binModes.bins.get 5).reserved = 0) ∧
    (binModes.bins.get 6).mode = .offline ∧ (binModes.bins.get 7).mode = .closed := by decide

theorem witness_LaneUpReturnsTheLane :
    NoReset laneDownBase ∧ FaultInv laneDownBase ∧ 4 ≤ (4 : Byte).toNat ∧ (3 : Byte).toNat = (3 : Fin 4).val ∧
    (1 : Byte).toNat = (1 : Fin 4).val ∧ (laneDownBase.health.get 1).down = true :=
  ⟨by decide, faults_good.2, by decide⟩

theorem witness_ReadFaultsAnswersAndClears : NoReset laneDownBase := by decide

theorem witness_ReadLinesAnswersAndClears : NoReset forklift := by decide

/-- The part about to place: its oldest unplaced entry GRADED at A, one PLACED before it. -/
theorem witness_WherePlacesTheOldestGradedSheet :
    ∃ e r, NoReset tabled ∧ TableInv tabled ∧ tabled.ahead = 0 ∧
      tabled.table = tabled.table.take 1 ++ e :: tabled.table.drop 2 ∧ (∀ x ∈ tabled.table.take 1, x.isPlaced = true) ∧
      e.state = .graded r ∧ r.disposition = .bin (.grade .a) ∧ walk tabled.ram tabled.bins (.grade .a) = some 0 :=
  ⟨_, _, by decide, by decide, by decide, rfl, by decide, rfl, by decide, by decide⟩

/-- A table of one entry GRADED to a disposition. -/
def gradedTo (d : Disposition) : State := { base with table := [entry 12 (.graded (record 12 d none)) .done] }

theorem witness_WhereAnswersWithoutPlacing :
    (let s : State := { base with ahead := 1 }
     NoReset s ∧ TableInv s ∧ IntakeInv s ∧ s.ahead ≠ 0) ∧
    (NoReset base ∧ TableInv base ∧ IntakeInv base ∧ base.ahead = 0 ∧ ∀ x ∈ base.table, x.isPlaced = true) ∧
    (let s := laneAt .waiting
     NoReset s ∧ TableInv s ∧ IntakeInv s ∧ s.ahead = 0 ∧ ∃ e ∈ s.table, e.isScanning = true) ∧
    (∃ e ∈ (scanningAlone (entry 5 .grading .done)).table, e.state = .grading) ∧
    (TableInv (gradedTo .reject) ∧ IntakeInv (gradedTo .reject) ∧ (record 12 .reject none).disposition = .reject) ∧
    (let s := gradedTo (.bin .redry)
     NoReset s ∧ TableInv s ∧ IntakeInv s ∧ walk s.ram s.bins .redry = none) :=
  ⟨by decide, by decide, by decide, by decide, by decide, by decide⟩

theorem witness_DroppedPushesTheRecord :
    NoReset tabled ∧ TableInv tabled ∧ IntakeInv tabled ∧
    (∃ e younger r, tabled.table = e :: younger ∧ e.state = .placed r 1 ∧ e.sheet = 11) ∧
    (∀ e, tabled.table.head? = some e → e.isPlaced = true → e.sheet ≠ 12) :=
  ⟨by decide, by decide, by decide, ⟨_, _, _, rfl, rfl, by decide⟩, by rintro e ⟨⟩; decide⟩

theorem witness_DivertRemovesTheSheet :
    (NoReset tabled ∧ TableInv tabled ∧ IntakeInv tabled) ∧
    (∃ e younger r, tabled.table = e :: younger ∧ e.state = .placed r 1 ∧ e.sheet = 11) ∧
    (∃ e, tabled.table = tabled.table.take 1 ++ e :: tabled.table.drop 2 ∧
      (∀ x ∈ tabled.table.take 1, x.isPlaced = true) ∧ e.isPlaced = false ∧ e.sheet = 12 ∧ tabled.ahead = 0 ∧
      (∀ x, (tabled.table.take 1).head? = some x → x.sheet ≠ 12) ∧ e.state ≠ .grading) ∧
    (let s : State := { base with table := [entry 13 .grading .done, entry 14 .ready .done] }
     TableInv s ∧ IntakeInv s ∧ s.table = [] ++ entry 13 .grading .done :: [entry 14 .ready .done] ∧
     [entry 14 .ready .done] = [] ++ entry 14 .ready .done :: []) ∧
    ((∀ x, tabled.table.head? = some x → x.isPlaced = true → x.sheet ≠ 13) ∧
      ∀ x, tabled.table.find? (fun x => !x.isPlaced) = some x → x.sheet ≠ 13 ∨ tabled.ahead ≠ 0) :=
  ⟨by decide, ⟨_, _, _, rfl, rfl, by decide⟩,
    ⟨_, rfl, by decide, by decide, by decide, by decide, (by rintro x ⟨⟩; decide), by decide⟩, by decide,
    (by rintro x ⟨⟩; decide), by rintro x ⟨⟩; decide⟩

theorem witness_EmptyingABinSettlesTheOrders :
    NoReset emptying ∧ OrderInv emptying ∧ 8 ≤ (8 : Byte).toNat ∧ (6 : Byte).toNat = (6 : Fin 8).val ∧
    (emptying.bins.get 6).mode = .offline ∧ (emptying.bins.get 3).mode ≠ .offline ∧
    OrderInv (ordered [closing] []) ∧ closing.calledBin = some 1 ∧
    (OrderInv forklift ∧ forklift.porstLow = false ∧ (forklift.lines.get 2).lapsed ≠ some true ∧
      (forklift.lines.get 2).debounced = some false ∧
      forklift.ram.lineFunction.get 2 = .inBinEmptied 4 ∧ (forklift.bins.get 4).mode ≠ .offline) :=
  ⟨by decide, by decide, by decide, by decide, by decide, by decide, by decide, by decide, by decide⟩

/-- Line 3, an input, when its inversion is written on: its pin has differed from its debounced level for so long. -/
def reconfigured (pin : Bool) (ms : Nat) : State :=
  after (.setSetting .line 1 0x051B 1) { quietBase with
    ram := { base.ram with lineFunction := base.ram.lineFunction.set 3 .inGeneral }
    lines := base.lines.set 3 { pin := pin, debounced := some !pin, differ := ms, latch := false, lapsed := none } }

/-- R184: the pending edge does not occur, and the next one does. -/
theorem test_a_reconfigured_line_drops_its_edge :
    (let s := after (.lineEdge 3) (reconfigured true 8)
     let t := after (.lineEdge 3) (taking [.pin 3 false] s)
     [reconfigured true 8, s, t].map fun s => ((s.lines.get 3).debounced, (s.lines.get 3).latch)) =
      [(some false, false), (some false, false), (some true, true)] := by decide

/-- R181, R184: at a reconfiguration before the 8 ms are over, or with a change to inactive pending, no edge is
pending, and none is dropped. -/
theorem test_a_reconfigured_line_drops_no_other_edge :
    (let s := after (.debouncedLevelInactive 3) (reconfigured false 8)
     let early := after (.lineEdge 3) (reconfigured true 7)
     let other := after (.lineEdge 3) (after (.debouncedLevelInactive 3) s)
     [early, s, other].map fun s => ((s.lines.get 3).debounced, (s.lines.get 3).latch)) =
      [(some true, true), (some true, false), (some true, true)] := by decide

theorem witness_LineEdgesAreLatchedAndOutputsDriven :
    let s : State := { forklift with
      ram := { forklift.ram with
        lineFunction := (forklift.ram.lineFunction.set 2 .inGeneral).set 3 (.inBinEmptied 6) }
      lines := (forklift.lines.set 3 { pin := true, debounced := some false, differ := 8, latch := false, lapsed := none }).set 4
        { pin := false, debounced := some true, differ := 8, latch := true, lapsed := none } }
    s.porstLow = false ∧ (s.lines.get 2).debounced = some false ∧ (s.lines.get 3).debounced = some false ∧
    (∀ b, s.ram.lineFunction.get 2 = .inBinEmptied b → (s.bins.get b).mode = .offline) ∧
    (∀ b, s.ram.lineFunction.get 3 = .inBinEmptied b → (s.bins.get b).mode = .offline) ∧
    (s.lines.get 4).debounced = some true ∧ (s.lines.get 2).lapsed ≠ some true ∧
    (s.lines.get 4).lapsed ≠ some false ∧ (s.lines.get 0).debounced ≠ some false ∧
    (s.lines.get 0).debounced ≠ some true ∧ ((reconfigured true 8).lines.get 3).lapsed = some true ∧
    ((reconfigured false 8).lines.get 3).lapsed = some false := by decide

/-- A younger STALLED order that wants a sheet of the same grade. -/
def younger : Active := order 1 314 [ply .b (some 1) false, ply .b (some 1) false, ply .d none false] .stalled none

/-- Two STALLED orders and one sheet that each of them wants. -/
def twoStalled : State :=
  let s := ordered [stalled, younger] []
  { s with bins := s.bins.set 4 (openBin (.grade .d) 1) }

theorem witness_GrowthTriesStalledOrdersThenTheHead :
    (OrderInv (ordered [] []) ∧ NoAdmission (ordered [drawing, planned] [plain 400 .normal .b]) ∧
      OrderInv (ordered [drawing, planned] [plain 400 .normal .b]) ∧ NoAdmission (ordered [drawing] [])) ∧
    (let s := ordered [] [plain 400 .normal .b]
     OrderInv s ∧ (∀ a ∈ s.active, a.slot ≠ 0) ∧
     planPlies s.bins (availableNow s.bins) (plain 400 .normal .b).plies = some [1, 1, 1] ∧ NoneStalled s) ∧
    (let s := ordered [{ planned with slot := 0 }] [plain 400 .normal .c]
     OrderInv s ∧ (∀ a ∈ s.active, a.slot ≠ 1) ∧ (∃ a ∈ s.active, a.slot = 0) ∧
     (planPlies s.bins (availableNow s.bins) (plain 400 .normal .c).plies).isSome) ∧
    (let s := ordered [stalled] []
     OrderInv s ∧ s.active = [] ++ stalled :: [] ∧ stalled.state = .stalled ∧
     planPlies s.bins (availableNow s.bins) ((stalled.plies.filter ActivePly.unplanned).map ActivePly.ply) = some [4]) ∧
    (twoStalled.active = [stalled, younger] ∧ stalled.state = .stalled ∧ younger.state = .stalled ∧ OrderInv twoStalled) :=
  ⟨⟨by decide, .inl rfl, by decide, .inr (by rintro o rest ⟨⟩)⟩, by decide, by decide, by decide, by decide⟩

/-- R107, R141: the older STALLED order gets the one sheet that both want. -/
theorem test_growth_tries_the_older_order_first :
    twoStalled.growth.active.map Active.state = [.planned, .stalled] := by decide

theorem witness_OrderJoinsTheQueueOrIsAdmitted :
    (let s := ordered [drawing, planned] [plain 400 .remake .d, plain 401 .normal .d]
     let o := plain 402 .remake .b
     NoReset s ∧ OrderInv s ∧ o.number = 402 ∧ recipeSize o.plies.length ∧ (3 : Byte).toNat = o.plies.length ∧
     (1 : Byte).toNat = o.cls.code ∧
     [1, 1, 1] = o.plies.map (fun p => BitVec.ofNat 8 (p.grade.code + if p.substitute then 16 else 0)) ∧
     (∀ x ∈ s.queue, x.number ≠ 402) ∧ (∀ x ∈ s.active, x.number ≠ 402) ∧ s.queue.length < 8 ∧
     NoAdmission { s with queue := [plain 400 .remake .d, o, plain 401 .normal .d] }) ∧
    (let s := ordered [drawing] []
     let o := plain 402 .normal .c
     NoReset s ∧ OrderInv s ∧ s.queue = [] ∧ (∀ a ∈ s.active, a.slot ≠ 1) ∧ (∃ a ∈ s.active, a.slot = 0) ∧
     planPlies s.bins (availableNow s.bins) o.plies = some [2, 3, 2]) ∧
    (let s := ordered [drawing] [stuck]
     let o := plain 402 .remake .c
     let t := ({ s with queue := [o, stuck] } : State).admissions
     NoReset s ∧ OrderInv s ∧ s.admitHead = none ∧ (∃ a ∈ t.active, a.number = 402) ∧ t.queue = [stuck]) :=
  ⟨⟨by decide, by decide, by decide, by decide, by decide, by decide, by decide, by decide, by decide, by decide, .inl rfl⟩,
    by decide, by decide⟩

/-- R101, R106: a REMAKE order passes a head that cannot be filled, and is admitted at once. -/
theorem test_order_passes_a_stuck_head :
    answer .press (after (.order .press 1 402 1 3 [2, 2, 2]) (ordered [drawing] [stuck])) =
      some (.ok, [1, 0x92, 1, 1]) := by decide

theorem witness_AbortFinishesOrClosesAnOrder :
    (let s := ordered [drawing, planned] [plain 400 .normal .d, plain 401 .normal .d]
     s.porstLow = false ∧ OrderInv s ∧ s.lrstLow = false ∧
     s.queue = [plain 400 .normal .d] ++ plain 401 .normal .d :: [] ∧ s.active = [] ++ drawing :: [planned] ∧
     s.active = [drawing] ++ planned :: []) ∧
    (∀ c, drawing.state ≠ .closing c) ∧ (∀ c, planned.state ≠ .closing c) ∧
    drawing.called = some 2 ∧ planned.called = none ∧
    (let s := ordered [ranOut drawing, planned] []
     s.porstLow = false ∧ OrderInv s ∧ s.active = [] ++ ranOut drawing :: [planned] ∧ (ranOut drawing).hold = some 0 ∧
     (∀ a ∈ s.active, a.slot = 1 → a.hold ≠ some 0)) :=
  ⟨by decide, (by rintro c ⟨⟩), (by rintro c ⟨⟩), by decide, by decide, by decide⟩

theorem witness_NextPlyCallsAndUncallClears :
    (let s := ordered [drawing, planned] []
     NoReset s ∧ OrderInv s ∧ s.active = [] ++ drawing :: [planned] ∧
     drawing.plies = [ply .b (some 1) true] ++ ply .b (some 1) false :: [ply .b (some 1) false] ∧
     drawing.called ≠ none ∧ s.active = [drawing] ++ planned :: [] ∧
     planned.plies = [] ++ ply .b (some 1) false :: [ply .c (some 2) false, ply .d (some 4) false] ∧
     planned.called = none) ∧
    (∀ c, drawing.state ≠ .closing c) ∧ (∀ c, planned.state ≠ .closing c) ∧
    (let a := { stalled with plies := [ply .d none false, ply .c (some 2) false, ply .b (some 1) false] }
     NoReset (ordered [a] []) ∧ OrderInv (ordered [a] []) ∧ (ply .d none false).bin = none) ∧
    (let s := ordered [closing] []
     NoReset s ∧ OrderInv s ∧ closing.state = .closing .cancelled ∧
     closing.plies = [ply .b (some 1) true] ++ ply .b (some 1) false :: [ply .b none false]) :=
  ⟨by decide, (by rintro c ⟨⟩), (by rintro c ⟨⟩), by decide, by decide⟩

theorem witness_TakenTakesTheTopRecord :
    (∃ r rest, NoReset (ordered [drawing] []) ∧ OrderInv (ordered [drawing] []) ∧
      (ordered [drawing] []).active = [] ++ drawing :: [] ∧
      drawing.plies = [ply .b (some 1) true] ++ ply .b (some 1) false :: [ply .b (some 1) false] ∧
      drawing.called ≠ none ∧ ((ordered [drawing] []).bins.get 1).stack = r :: rest) ∧
    (∀ c, drawing.state ≠ .closing c) ∧
    (NoReset (ordered [lastPly] []) ∧ OrderInv (ordered [lastPly] []) ∧ lastPly.called ≠ none ∧
      lastPly.plies = [ply .b (some 1) true, ply .b (some 1) true] ++ ply .b (some 1) false :: []) ∧
    (NoReset (ordered [closing] []) ∧ OrderInv (ordered [closing] []) ∧ closing.called ≠ none ∧
      closing.state = .closing .cancelled) :=
  ⟨⟨_, _, by decide, by decide, by decide, by decide, by decide, rfl⟩, (by rintro c ⟨⟩), by decide, by decide⟩

theorem witness_PressCommandsAreRefused :
    (let s := ordered [drawing, closing] ((List.range 8).map fun i => plain (400 + i) .normal .d)
     NoReset (ordered [drawing] []) ∧ OrderInv (ordered [drawing] []) ∧ s.queue.length = 8 ∧
     (∃ o ∈ s.queue, o.number = 400) ∧ (∃ a ∈ s.active, a.number = 310)) ∧
    (let s := ordered [drawing, { closing with slot := 1 }] ((List.range 8).map fun i => plain (400 + i) .normal .d)
     NoReset s ∧ OrderInv s ∧ (∀ o ∈ s.queue, o.number ≠ 99) ∧ (∀ a ∈ s.active, a.number ≠ 99) ∧
     ∃ a ∈ s.active, a.number = 313 ∧ a.state = .closing .cancelled) ∧
    ((¬ recipeSize (4 : Byte).toNat) ∧ recipeSize (3 : Byte).toNat ∧ (0 : Byte).toNat < 2 ∧
      ∀ b ∈ ([0, 3, 0x13] : List Byte), b.toNat % 16 < 4 ∧ b.toNat / 16 < 2) ∧
    (OrderInv (ordered [planned] []) ∧ planned.called = none ∧ planned.withdrawn = none) ∧
    (let a := { stalled with plies := [ply .d none false, ply .c (some 2) false, ply .b (some 1) false], withdrawn := some 1 }
     OrderInv (ordered [a] []) ∧ a.called = none ∧ a.withdrawn = some 1) :=
  ⟨by decide, by decide, by decide, by decide, by decide⟩

theorem witness_OrderStatusReportsTheOrder :
    let s : State := { ordered [drawing] [plain 400 .normal .d, plain 401 .normal .d] with
      finished := [⟨300, .complete⟩, ⟨301, .aborted .timedOut⟩, ⟨300, .aborted .cancelled⟩] }
    NoReset s ∧ OrderInv s ∧ s.queue = [plain 400 .normal .d] ++ plain 401 .normal .d :: [] ∧
    (∃ a ∈ s.active, a.number = 310) ∧ (∀ o ∈ s.queue, o.number ≠ 300) ∧ (∀ a ∈ s.active, a.number ≠ 300) ∧
    s.finished = [⟨300, .complete⟩, ⟨301, .aborted .timedOut⟩] ++ ⟨300, .aborted .cancelled⟩ :: [] ∧
    (∀ x ∈ s.finished, x.number ≠ 999) :=
  ⟨by decide, by decide, by decide, by decide, by decide, by decide, by decide, by decide⟩

/-- The part during a load, and during a store. -/
def busyWith (o : Operation) : State := { quietBase with op := o }

/-- The part during an operation, at a place on the EEPROM bus. -/
def at_ (o : Operation) (b : Bus) : State := { busyWith o with bus := b }

theorem witness_LoadsAndStoresEnd :
    ((busyWith .loading).porstLow = false ∧ (busyWith .loading).op = .loading ∧ (busyWith .storing).porstLow = false ∧
      (busyWith .storing).op = .storing ∧ SettingsInv (busyWith .storing)) ∧
    (let bytes := example_ram.image
     (Instr.loadEnd (.image bytes)).wellFormed = true ∧ byteAt bytes 0 = 0x01 ∧
     (wordAt bytes 213).toNat = (((bytes.drop 1).take 212).map BitVec.toNat).sum % 65536 ∧
     ∀ i : Fin 107, ∀ x ∈ allSettings[i.val]?, x.domain.holds (wordAt bytes (1 + 2 * i.val)).toNat = true ∧
      example_ram.get x = (wordAt bytes (1 + 2 * i.val)).toNat) ∧
    ((Instr.loadEnd .noAck).wellFormed = true ∧ (Instr.loadEnd (.image (List.replicate 215 0))).wellFormed = true ∧
      byteAt (List.replicate 215 0) 0 ≠ 0x01) ∧
    (State.reset.bus = .reading 0 [] ∧ State.reset.op = .loading ∧ base.bus = .idle ∧
      (at_ .storing (.writing 0 3)).bus = .writing 0 3 ∧ (at_ .storing (.waiting 214 0)).bus = .waiting 214 0 ∧
      (at_ .loading (.reading 4 (List.replicate 214 0))).bus = .reading 4 (List.replicate 214 0) ∧
      (List.replicate 214 (0 : Byte)).length = 214) :=
  ⟨⟨by decide, by decide, by decide, by decide, settings_good _ (by decide)⟩, by decide +kernel, by decide +kernel,
    by decide +kernel⟩

/-- R166: the bytes that begin a load, and those of the transaction that writes the last image byte. -/
theorem test_bytes_on_the_eeprom_bus :
    ([State.reset, taking [.busAck true] State.reset, taking (List.replicate 3 (.busAck true)) State.reset,
      taking (List.replicate 4 (.busAck true)) State.reset].map State.busNext,
     [0, 1, 2].map fun n => (at_ .storing (.writing 214 n)).busNext) =
      ([some (.send 0xA0), some (.send 0x00), some (.send 0xA1), some (.receive true)],
       [some (.send 0xA0), some (.send 0x00), some (.send 0xD6)]) := by decide

/-- R192, R195: a missing acknowledge ends the operation, but in the wait of a store. -/
theorem test_a_missing_acknowledge :
    ((taking [.busAck false] State.reset).pending, (taking [.busAck false] (at_ .storing (.writing 3 1))).pending,
      (taking [.busAck false] (at_ .storing (.waiting 3 1))).bus) = ([.loadEnd .noAck], [.storeEnd .noAck], .waiting 3 1) := by
  decide

theorem witness_LineResetClearsTheWorkAndKeepsTheStacks : tabled.porstLow = false ∧ tabled.lrstLow = false := by decide

theorem witness_PowerOnResetHoldsAndReleasesThePart :
    (State.powerOn base).porstLow = true ∧ (State.powerOn base).lrstLow = false ∧
    (State.powerOn { base with lrstLow := true }).lrstLow = true ∧
    (∀ p, Instr.status .line 1 ≠ .selectFall p) ∧ (∀ stays, Instr.status .line 1 ≠ .lineReset stays) :=
  ⟨by decide, by decide, by decide, (by rintro p ⟨⟩), by rintro p ⟨⟩⟩

theorem witness_FaultOccurrencesAreRecorded :
    FaultInv base ∧ FaultInv laneDownBase ∧ (∀ j, (base.faults.get j).pending = false) ∧
    (laneDownBase.faults.get .outOfOrder).pending = true ∧ (laneDownBase.faults.get .syncLost).pending = false ∧
    laneDownBase.firstFault.isSome :=
  ⟨faults_good.1, faults_good.2, (by intro j; cases j <;> decide), by decide⟩

theorem witness_FlagsAreSetExactlyByTheirConditions :
    forklift.porstLow = false ∧ clearsFlags (.lineEdge 2) = false ∧ (∃ t, exec (.lineEdge 2) forklift = .next t) ∧
    (forklift.lineHold != (after (.lineEdge 2) forklift).lineHold) = true :=
  ⟨by decide, by decide, ⟨_, rfl⟩, by decide⟩

/-- The part with a command in front: the invariants hold of it, and its step answers a next state. -/
def commanded (c : Instr) (s : State) : State := { s with pending := [c] }

theorem witness_StepKeepsTheSheetTableAndIntake :
    TableInv (commanded .gradingComplete tabled) ∧ IntakeInv (commanded .gradingComplete tabled) ∧
    (∃ t, step (commanded .gradingComplete tabled) = .next t) := ⟨by decide, by decide, _, rfl⟩

theorem witness_StepKeepsTheBins :
    TableInv (commanded (.dropped .stacker 1 11) tabled) ∧ SettingsInv tabled ∧
    BinInv (commanded (.dropped .stacker 1 11) tabled) ∧
    (∃ t, step (commanded (.dropped .stacker 1 11) tabled) = .next t) :=
  ⟨by decide, settings_good tabled (by decide), by decide, _, rfl⟩

theorem witness_StepKeepsTheOrders :
    OrderInv (commanded (.taken .press 1 310) (ordered [drawing, planned] [plain 400 .normal .d])) ∧
    (∃ t, step (commanded (.taken .press 1 310) (ordered [drawing, planned] [plain 400 .normal .d])) = .next t) :=
  ⟨by decide, _, rfl⟩

theorem witness_StepKeepsSettingsFaultsPortsAndLines :
    SettingsInv forklift ∧ FaultInv laneDownBase ∧ LineInv forklift ∧ OrderInv forklift ∧ PortInv forklift ∧
    BusInv State.reset ∧ BusInv timed ∧ (∃ t, step (commanded (.lineEdge 2) forklift) = .next t) :=
  ⟨settings_good forklift (by decide), faults_good.2, by decide, by decide, (by intro p; cases p <;> decide), by decide,
    by decide, _, rfl⟩

end Sys2Proof.Tests
end

namespace Sys2Proof.Machine

/-! # What every step keeps

An invariant is carried from a state to the next by a relation that is reflexive and transitive (`Kept`), so that
a command composed of several operations keeps it by the chain of its operations. -/

/-! ## The relations -/

/-- The invariants of the sheet table and the intake, which are kept together. -/
def SheetInv (s : State) : Prop := TableInv s ∧ IntakeInv s

/-- The invariants of the settings, the faults, the lines, the bus and the ports go over from one state to another. -/
structure OthersKept (s t : State) : Prop where
  settings : SettingsInv s → SettingsInv t
  faults : FaultInv s → FaultInv t
  lines : LineInv s → LineInv t
  bus : BusInv s → BusInv t
  ports : PortInv s → PortInv t

/-- All the invariants but those of the bins and the orders go over from one state to another. -/
structure Kept (s t : State) : Prop where
  others : OthersKept s t
  sheets : SheetInv s → SheetInv t

/-- What a step keeps: as `Kept`, but that the answers fit their ports only where the orders do (R115). -/
structure StepKept (s t : State) : Prop where
  sheets : SheetInv s → SheetInv t
  settings : SettingsInv s → SettingsInv t
  faults : FaultInv s → FaultInv t
  lines : LineInv s → LineInv t
  bus : BusInv s → BusInv t
  ports : OrderInv s → PortInv s → PortInv t

theorem OthersKept.refl (s : State) : OthersKept s s := ⟨id, id, id, id, id⟩

theorem OthersKept.trans {s t u : State} (h : OthersKept s t) (k : OthersKept t u) : OthersKept s u :=
  ⟨k.settings ∘ h.settings, k.faults ∘ h.faults, k.lines ∘ h.lines, k.bus ∘ h.bus, k.ports ∘ h.ports⟩

theorem Kept.refl (s : State) : Kept s s := ⟨.refl s, id⟩

theorem Kept.trans {s t u : State} (h : Kept s t) (k : Kept t u) : Kept s u :=
  ⟨h.others.trans k.others, k.sheets ∘ h.sheets⟩

/-- `Kept.trans` with the later part first, which names the state between. -/
theorem Kept.after {s t u : State} (k : Kept t u) (h : Kept s t) : Kept s u := h.trans k

theorem Kept.step {s t : State} (h : Kept s t) : StepKept s t :=
  ⟨h.sheets, h.others.settings, h.others.faults, h.others.lines, h.others.bus, fun _ => h.others.ports⟩

/-- A state that differs only where none of these invariants looks, and in its ports. -/
theorem Kept.aside {s t : State}
    (h : t = { s with
      rx := t.rx, missed := t.missed, bad := t.bad, stray := t.stray, sheetCounter := t.sheetCounter, bins := t.bins
      queue := t.queue, active := t.active, finished := t.finished, admissionSeq := t.admissionSeq, ports := t.ports
      lrstLow := t.lrstLow, inputs := t.inputs, pending := t.pending })
    (hp : PortInv s → PortInv t) : Kept s t := by
  refine ⟨⟨?_, ?_, ?_, ?_, hp⟩, ?_⟩ <;> rw [h] <;> exact id

/-! ## Event flags -/

theorem State.raise_ports_eq (s : State) (e : Event) : s.raise e = { s with ports := (s.raise e).ports } := by
  cases e <;> rfl

theorem State.raiseIf_ports_eq (s : State) (c : Bool) (e : Event) :
    s.raiseIf c e = { s with ports := (s.raiseIf c e).ports } := by
  cases c
  · rfl
  · exact s.raise_ports_eq e

/-- A named flag stays within the named flags (R167, Table 8-1). -/
theorem setBit_named {p : Port} {n : Nat} {w : Word} (hn : setBit 0 n &&& ~~~namedFlags p = 0)
    (hw : w &&& ~~~namedFlags p = 0) : setBit w n &&& ~~~namedFlags p = 0 := by
  have hb : BitVec.twoPow 16 n &&& ~~~namedFlags p = 0 := by simpa [setBit] using hn
  rw [setBit, BitVec.and_comm, BitVec.and_or_distrib_left, BitVec.and_comm, hw, BitVec.and_comm, hb]
  rfl

theorem PortInv.setFlag {s : State} (h : PortInv s) {pn : Port × Nat}
    (hn : setBit 0 pn.2 &&& ~~~namedFlags pn.1 = 0) : PortInv (s.setFlag pn) := by
  intro p
  rw [State.setFlag_port]
  split
  next hp => subst hp; exact ⟨setBit_named hn (h pn.1).1, (h pn.1).2⟩
  next => exact h p

theorem PortInv.setFlags {s : State} (l : List (Port × Nat))
    (hl : ∀ pn ∈ l, setBit 0 pn.2 &&& ~~~namedFlags pn.1 = 0) (h : PortInv s) : PortInv (l.foldl State.setFlag s) := by
  induction l generalizing s with
  | nil => exact h
  | cons pn l ih => exact ih (fun x hx => hl x (by simp [hx])) (h.setFlag (hl pn (by simp)))

theorem PortInv.raise {s : State} (h : PortInv s) (e : Event) : PortInv (s.raise e) :=
  h.setFlags e.bits (by cases e <;> decide)

theorem PortInv.raiseIf {s : State} (h : PortInv s) (c : Bool) (e : Event) : PortInv (s.raiseIf c e) := by
  cases c
  · exact h
  · exact h.raise e

theorem PortInv.setPort {s : State} (h : PortInv s) (p : Port) {x : PortState}
    (hx : x.flags &&& ~~~namedFlags p = 0 ∧ ∀ a ∈ x.answer, a.payload.length ≤ 29) : PortInv (s.setPort p x) := by
  intro q
  rw [State.setPort_port]
  split
  next hq => subst hq; exact hx
  next => exact h q

theorem Kept.raise (s : State) (e : Event) : Kept s (s.raise e) :=
  .aside (by rw [State.raise_ports_eq]) fun h => h.raise e

theorem Kept.raiseIf (s : State) (c : Bool) (e : Event) : Kept s (s.raiseIf c e) := by
  cases c
  · exact .refl s
  · exact .raise s e

theorem Kept.announce (s t : State) : Kept t (s.announce t) := (Kept.raiseIf _ _ _).trans (.raiseIf _ _ _)

theorem Kept.setPort (s : State) (p : Port) {x : PortState}
    (hx : PortInv s → x.flags &&& ~~~namedFlags p = 0 ∧ ∀ a ∈ x.answer, a.payload.length ≤ 29) :
    Kept s (s.setPort p x) :=
  .aside rfl fun h => h.setPort p (hx h)

/-! ## Station frames -/

theorem Kept.acceptFrame (s : State) (p : Port) : Kept s (s.acceptFrame p) :=
  .setPort s p fun h => ⟨(h p).1, by simp⟩

/-- The answer of a frame fits one FETCH window (R155). -/
def Reply.fits (r : Reply) : Prop := r.payload.length ≤ 29

theorem Reply.bare_fits (c : ResultCode) : (Reply.bare c).fits := by simp [Reply.fits, Reply.bare]

theorem Kept.placeAnswer (s : State) (p : Port) (tag : Byte) {r : Reply} (hr : r.fits) :
    Kept s (s.placeAnswer p tag r) :=
  .setPort s p fun h => ⟨(h p).1, fun a ha => by cases ha; exact hr⟩

/-- Without the answer's length the other invariants are kept by the placing of any answer. -/
theorem StepKept.placeAnswer {s t : State} (h : Kept s t) (p : Port) (tag : Byte) {r : Reply}
    (hr : OrderInv s → r.fits) : StepKept s (t.placeAnswer p tag r) :=
  ⟨h.sheets, h.others.settings, h.others.faults, h.others.lines, h.others.bus,
    fun ho hp => (Kept.placeAnswer t p tag (hr ho)).others.ports (h.others.ports hp)⟩

/-- A station command keeps what its owning block's decision keeps, where its answers fit. -/
theorem station_kept {p : Port} {tag : Byte} {right acts : Bool} {body : State → State × Option Reply} {s t : State}
    (hb : ∀ u : State, u.porstLow = false → Kept u (body u).1)
    (ha : ∀ u : State, OrderInv u → ∀ r ∈ (body u).2, r.fits)
    (h : station p tag right acts body s = .next t) : StepKept s t := by
  by_cases hl : s.porstLow = true
  · rw [station, powered_held hl] at h
    cases h
    exact (Kept.refl s).step
  · have hl : s.porstLow = false := by simpa using hl
    rw [station_next hl] at h
    cases h
    have acc := Kept.acceptFrame s p
    unfold dispatched
    split
    · exact .placeAnswer acc p tag fun _ => Reply.bare_fits _
    · split
      · exact .placeAnswer acc p tag fun _ => Reply.bare_fits _
      · have body_kept := acc.trans (hb (s.acceptFrame p) hl)
        have fits := ha (s.acceptFrame p)
        unfold State.answered
        split
        next r hr => exact .placeAnswer body_kept p tag fun ho => fits ho r hr
        next => exact body_kept.step

/-- A decision that leaves the block as it is. -/
theorem station_unchanged_kept {p : Port} {tag : Byte} {right acts : Bool} {reply : State → Reply} {s t : State}
    (ha : ∀ u : State, OrderInv u → (reply u).fits)
    (h : station p tag right acts (fun u => unchanged u (reply u)) s = .next t) : StepKept s t :=
  station_kept (fun u _ => .refl u) (fun u ho r hr => by cases hr; exact ha u ho) h

/-- An event keeps what its effect on a part out of power-on reset keeps. -/
theorem powered_kept {f : State → State} {s t : State} (hf : s.porstLow = false → Kept s (f s))
    (h : powered s f = .next t) : StepKept s t := by
  by_cases hl : s.porstLow = true
  · rw [powered_held hl] at h
    cases h
    exact (Kept.refl s).step
  · have hl : s.porstLow = false := by simpa using hl
    rw [powered_next hl] at h
    cases h
    exact (hf hl).step

end Sys2Proof.Machine

namespace Sys2Proof.Machine

/-! ## The faults (R171, R172) -/

/-- The part of the fault invariant that no condition of the part holds: the first-fault record stands exactly while a
kind is pending, and the counts are in their ranges. -/
def RecordInv (s : State) : Prop :=
  s.firstFault.isSome = anyPending s.faults ∧
  (∀ k, (s.faults.get k).count ≤ 255 ∧ ((s.faults.get k).pending = true → (s.faults.get k).count ≠ 0)) ∧
  ∀ r ∈ s.firstFault, r.later ≤ 255

theorem faultInv_iff (s : State) : FaultInv s ↔ RecordInv s ∧
    (s.faults.get .laneDown).pending = s.anyDown ∧
    ((s.faults.get .settingsInvalid).pending = true → s.settingsValid = false) ∧
    ∀ k, (s.health.get k).count ≤ 15 := by
  unfold FaultInv RecordInv
  tauto

theorem anyPending_set (f : PerFault FaultEntry) (k : FaultKind) (e : FaultEntry) (h : e.pending = true) :
    anyPending (f.set k e) = true :=
  (anyPending_eq _).2 ⟨k, by simpa using h⟩

theorem RecordInv.faultOccurs {s : State} (h : RecordInv s) (k : FaultKind) : RecordInv (s.faultOccurs k) := by
  obtain ⟨hf, hc, hl⟩ := h
  unfold RecordInv
  rw [State.faultOccurs_faults, State.faultOccurs_firstFault, anyPending_set _ _ _ rfl]
  refine ⟨?_, fun j => ?_, ?_⟩
  · split
    next hp => exact hf.trans ((anyPending_eq _).2 ⟨k, hp⟩)
    next => unfold State.recordFault; split <;> simp_all
  · rw [PerFault.get_set]
    split
    · exact ⟨by simp only; omega, fun _ => by simp only; omega⟩
    · exact hc j
  · split
    · exact hl
    · unfold State.recordFault
      split
      · simp [satSucc, Config.faultCountMax]
      · simp

theorem RecordInv.faultEnds {s : State} (h : RecordInv s) (k : FaultKind) : RecordInv (s.faultEnds k) := by
  obtain ⟨hf, hc, hl⟩ := h
  rw [State.faultEnds_eq]
  refine ⟨?_, fun j => ?_, ?_⟩
  · dsimp only
    split
    next hp =>
      obtain ⟨j, hj⟩ := (anyPending_eq _).1 hp
      rw [hp, hf]
      refine (anyPending_eq _).2 ⟨j, ?_⟩
      rw [PerFault.get_set] at hj
      split at hj
      · simp at hj
      · exact hj
    next hp => rw [Bool.eq_false_iff.2 hp]; rfl
  · dsimp only
    rw [PerFault.get_set]
    split
    · exact ⟨(hc k).1, by simp⟩
    · exact hc j
  · dsimp only
    split
    · exact hl
    · simp

/-- An occurrence sets its own kind alone. -/
theorem State.faultOccurs_isPending (s : State) (k j : FaultKind) :
    ((s.faultOccurs k).faults.get j).pending = (decide (j = k) || (s.faults.get j).pending) := by
  rw [State.faultOccurs_faults, PerFault.get_set]
  split <;> simp_all

theorem State.faultEnds_isPending (s : State) (k j : FaultKind) :
    ((s.faultEnds k).faults.get j).pending = (decide (j ≠ k) && (s.faults.get j).pending) := by
  rw [State.faultEnds_eq]
  dsimp only
  rw [PerFault.get_set]
  split <;> simp_all

theorem anyDown_congr {s t : State} (h : t.health = s.health) : t.anyDown = s.anyDown := by
  unfold State.anyDown
  rw [h]

theorem PortInv.faultOccurs {s : State} (h : PortInv s) (k : FaultKind) : PortInv (s.faultOccurs k) := by
  unfold State.faultOccurs
  dsimp only
  split
  · exact h
  · exact PortInv.raise (s := { s with faults := _, firstFault := _ }) h .faultRaised

/-- An occurrence touches the fault state and the event flags alone. -/
theorem State.faultOccurs_faults_eq (s : State) (k : FaultKind) :
    s.faultOccurs k = { s with
      faults := (s.faultOccurs k).faults, firstFault := (s.faultOccurs k).firstFault
      ports := (s.faultOccurs k).ports } := by
  unfold State.faultOccurs
  dsimp only
  split
  · rfl
  · rw [State.raise_ports_eq]

/-- A state that differs in its faults and its lanes' health, and they stay consistent. -/
theorem Kept.ofFaults {s t : State}
    (h : t = { s with faults := t.faults, firstFault := t.firstFault, health := t.health, ports := t.ports })
    (hf : FaultInv s → FaultInv t) (hp : PortInv s → PortInv t) : Kept s t := by
  refine ⟨⟨?_, hf, ?_, ?_, hp⟩, ?_⟩ <;> rw [h] <;> exact id

/-- An occurrence of a latched kind keeps the faults consistent, since no condition of the part holds it. -/
theorem Kept.faultOccurs (s : State) {k : FaultKind} (hk : k.latched = true) : Kept s (s.faultOccurs k) := by
  refine .ofFaults (by rw [State.faultOccurs_faults_eq]) (fun h => ?_) fun h => h.faultOccurs k
  obtain ⟨hr, hd, hv, hh⟩ := (faultInv_iff s).1 h
  have h1 : FaultKind.laneDown ≠ k := by rintro rfl; simp [FaultKind.latched] at hk
  have h2 : FaultKind.settingsInvalid ≠ k := by rintro rfl; simp [FaultKind.latched] at hk
  refine (faultInv_iff _).2 ⟨hr.faultOccurs k, ?_, ?_, by simpa using hh⟩
  · rw [State.faultOccurs_isPending, anyDown_congr (by simp : (s.faultOccurs k).health = s.health), ← hd]
    simp [h1]
  · rw [State.faultOccurs_isPending]
    simpa [h2] using hv

theorem State.clearFaults_get (s : State) (clear : Word) (j : FaultKind) :
    (s.clearFaults clear).faults.get j = (s.faults.get j).cleared j (clear.getLsbD j.code) := by
  simp [State.clearFaults]

theorem State.clearFaults_firstFault (s : State) (clear : Word) :
    (s.clearFaults clear).firstFault = if anyPending (s.clearFaults clear).faults then s.firstFault else none := by
  unfold State.clearFaults State.settleFirstFault
  split <;> simp_all

/-- A cleared kind is not pending with count 0, and one that its condition holds stays as it is (R174). -/
theorem FaultEntry.cleared_cases (e : FaultEntry) (k : FaultKind) (named : Bool) :
    e.cleared k named = e ∨
      (e.cleared k named = { pending := false, count := 0 } ∧ (k.latched = false → e.pending = false)) := by
  unfold FaultEntry.cleared
  split
  · exact .inl rfl
  · split
    next h => exact .inr ⟨rfl, fun hk => by simpa [hk] using h⟩
    next => exact .inl rfl

theorem FaultEntry.cleared_pending {e : FaultEntry} {k : FaultKind} {named : Bool}
    (h : (e.cleared k named).pending = true) : e.pending = true := by
  rcases e.cleared_cases k named with hc | ⟨hc, -⟩ <;> rw [hc] at h
  · exact h
  · simp at h

theorem FaultEntry.cleared_held (e : FaultEntry) {k : FaultKind} (named : Bool) (hk : k.latched = false) :
    (e.cleared k named).pending = e.pending := by
  rcases e.cleared_cases k named with hc | ⟨hc, hp⟩ <;> rw [hc]
  exact (hp hk).symm

/-- READ_FAULTS keeps the faults consistent (R174). -/
theorem FaultInv.clearFaults {s : State} (h : FaultInv s) (clear : Word) : FaultInv (s.clearFaults clear) := by
  obtain ⟨⟨hf, hc, hl⟩, hd, hv, hh⟩ := (faultInv_iff s).1 h
  have health : (s.clearFaults clear).health = s.health := by simp [State.clearFaults]
  have valid : (s.clearFaults clear).settingsValid = s.settingsValid := by simp [State.clearFaults]
  refine (faultInv_iff _).2 ⟨⟨?_, fun j => ?_, ?_⟩, ?_, ?_, by rwa [health]⟩
  · rw [State.clearFaults_firstFault]
    split
    next hp =>
      obtain ⟨j, hj⟩ := (anyPending_eq _).1 hp
      rw [hp, hf]
      exact (anyPending_eq _).2 ⟨j, FaultEntry.cleared_pending (by rwa [State.clearFaults_get] at hj)⟩
    next hp => rw [Bool.eq_false_iff.2 hp]; rfl
  · rw [State.clearFaults_get]
    rcases (s.faults.get j).cleared_cases j (clear.getLsbD j.code) with h1 | ⟨h1, -⟩ <;> rw [h1]
    · exact hc j
    · simp
  · rw [State.clearFaults_firstFault]
    split
    · exact hl
    · simp
  · rw [State.clearFaults_get, FaultEntry.cleared_held _ _ rfl, anyDown_congr health, hd]
  · rw [State.clearFaults_get, FaultEntry.cleared_held _ _ rfl, valid]
    exact hv

theorem Kept.clearFaults (s : State) (clear : Word) : Kept s (s.clearFaults clear) := by
  refine .ofFaults ?_ (fun h => h.clearFaults clear) ?_
  · unfold State.clearFaults State.settleFirstFault
    split <;> rfl
  · intro h
    simpa [State.clearFaults, PortInv, State.port] using h

/-! ## Lane health (R22 to R24) -/

/-- Of four lanes one is DOWN, or with that one's flag replaced another. -/
theorem anyDown_set (s : State) (k : Fin 4) (h : LaneHealth) :
    ({ s with health := s.health.set k h } : State).anyDown = true ↔
      h.down = true ∨ ∃ j, j ≠ k ∧ (s.health.get j).down = true := by
  simp only [State.anyDown, List.any_eq_true, mem_fourLanes, true_and, Quad.get_set]
  constructor
  · rintro ⟨j, hj⟩
    by_cases hk : j = k
    · exact .inl (by simpa [hk] using hj)
    · exact .inr ⟨j, hk, by simpa [hk] using hj⟩
  · rintro (hd | ⟨j, hk, hj⟩)
    · exact ⟨k, by simpa using hd⟩
    · exact ⟨j, by simpa [hk] using hj⟩

theorem anyDown_iff (s : State) : s.anyDown = true ↔ ∃ k, (s.health.get k).down = true := by
  simp [State.anyDown]

/-- A lane's record replaced without its DOWN flag leaves the faults consistent. -/
theorem FaultInv.setHealth {s : State} (h : FaultInv s) (k : Fin 4) {n : Nat} (hn : n ≤ 15) :
    FaultInv { s with health := s.health.set k { s.health.get k with count := n } } := by
  obtain ⟨hr, hd, hv, hh⟩ := (faultInv_iff s).1 h
  refine (faultInv_iff _).2 ⟨hr, ?_, hv, fun j => ?_⟩
  · rw [show (s.faults.get .laneDown).pending = s.anyDown from hd, Bool.eq_iff_iff, anyDown_set, anyDown_iff]
    constructor
    · rintro ⟨j, hj⟩
      by_cases hk : j = k
      · exact .inl (hk ▸ hj)
      · exact .inr ⟨j, hk, hj⟩
    · rintro (hj | ⟨j, -, hj⟩)
      · exact ⟨k, hj⟩
      · exact ⟨j, hj⟩
  · dsimp only
    rw [Quad.get_set]
    split
    · exact hn
    · exact hh j

/-- A FAILED lane's count is raised, and LANE_FAULTED set (R22). -/
def State.countFailure (s : State) (k : Fin 4) : State :=
  { s with health := s.health.set k { s.health.get k with count := min 15 ((s.health.get k).count + 1) } }.raise
    .laneFaulted

/-- A lane goes DOWN with a count, which is an occurrence of LANE_DOWN (R22, R171). -/
def State.takeDown (s : State) (k : Fin 4) (n : Nat) : State :=
  ({ s with health := s.health.set k { count := n, down := true } }.raise .laneDown).faultOccurs .laneDown

/-- A lane that goes DOWN leaves the faults consistent. -/
theorem FaultInv.takeDown {s : State} (h : FaultInv s) (k : Fin 4) {n : Nat} (hn : n ≤ 15) :
    FaultInv (s.takeDown k n) := by
  obtain ⟨hr, hd, hv, hh⟩ := (faultInv_iff s).1 h
  unfold State.takeDown
  generalize hu : ({ s with health := s.health.set k { count := n, down := true } } : State) = u
  have hru : RecordInv (u.raise .laneDown) := by subst hu; simpa [RecordInv] using hr
  refine (faultInv_iff _).2 ⟨hru.faultOccurs _, ?_, ?_, fun j => ?_⟩
  · rw [State.faultOccurs_isPending]
    have hdown : u.anyDown = true := by subst hu; exact (anyDown_set s k _).2 (.inl rfl)
    rw [anyDown_congr (by simp : ((u.raise .laneDown).faultOccurs .laneDown).health = u.health), hdown]
    simp
  · rw [State.faultOccurs_isPending]
    subst hu
    simpa using hv
  · subst hu
    simp only [State.faultOccurs_health, State.raise_health, Quad.get_set]
    split
    · exact hn
    · exact hh j

/-- What one lane's outcome does: nothing, a REPORTED lane's count set to 0, or a FAILED lane's count raised, with
which it may go DOWN (R22, R63). -/
theorem State.laneOutcome_cases (s : State) (k : Fin 4) (st : LaneState) :
    let n := min 15 ((s.health.get k).count + 1)
    ((st = .waiting ∨ st = .opened ∨ st = .missing .down) ∧ s.laneOutcome k st = s) ∨
    (st = .done ∧ s.laneOutcome k st =
      { s with health := s.health.set k { s.health.get k with count := 0 } }) ∨
    ((st = .missing .timeout ∨ st = .missing .overflow ∨ st = .missing .head) ∧
      s.laneOutcome k st = if !(s.health.get k).down && s.ram.laneDownCount ≤ n then (s.countFailure k).takeDown k n
        else s.countFailure k) := by
  rcases st with _ | _ | _ | _ | _ | _ | _
  · exact .inl ⟨.inl rfl, rfl⟩
  · exact .inl ⟨.inr (.inl rfl), rfl⟩
  · exact .inr (.inl ⟨rfl, rfl⟩)
  · exact .inr (.inr ⟨.inl rfl, rfl⟩)
  · exact .inr (.inr ⟨.inr (.inl rfl), rfl⟩)
  · exact .inr (.inr ⟨.inr (.inr rfl), rfl⟩)
  · exact .inl ⟨.inr (.inr rfl), rfl⟩

/-- A lane's count replaced within its range leaves the rest as it is. -/
theorem Kept.setLaneCount (s : State) (k : Fin 4) {n : Nat} (hn : n ≤ 15) :
    Kept s { s with health := s.health.set k { s.health.get k with count := n } } :=
  .ofFaults rfl (fun h => h.setHealth k hn) id

theorem Kept.countFailure (s : State) (k : Fin 4) : Kept s (s.countFailure k) := by
  unfold State.countFailure
  refine .trans ?_ (.raise _ _)
  exact .setLaneCount s k (Nat.min_le_left _ _)

theorem Kept.takeDown (s : State) (k : Fin 4) {n : Nat} (hn : n ≤ 15) : Kept s (s.takeDown k n) := by
  refine .ofFaults ?_ (fun h => h.takeDown k hn) fun h => ?_
  · rw [State.takeDown, State.faultOccurs_faults_eq, State.raise_ports_eq]
  · unfold State.takeDown
    refine PortInv.faultOccurs (PortInv.raise ?_ _) _
    exact h

theorem Kept.laneOutcome (s : State) (k : Fin 4) (st : LaneState) : Kept s (s.laneOutcome k st) := by
  rcases s.laneOutcome_cases k st with ⟨-, h⟩ | ⟨-, h⟩ | ⟨-, h⟩ <;> rw [h]
  · exact .refl s
  · exact .setLaneCount s k (Nat.zero_le _)
  · split
    · exact (Kept.countFailure s k).trans (.takeDown _ k (Nat.min_le_left _ _))
    · exact .countFailure s k

theorem Kept.laneOutcomes (s : State) (e : Entry) : Kept s (s.laneOutcomes e) := by
  unfold State.laneOutcomes
  generalize fourLanes = l
  induction l generalizing s with
  | nil => exact .refl s
  | cons k l ih => exact (Kept.laneOutcome s k _).trans (ih _)

/-- A lane returned to service leaves the faults consistent: LANE_DOWN ends with the last DOWN lane (R24, R171). -/
theorem FaultInv.returnLane {s : State} (h : FaultInv s) (k : Fin 4) : FaultInv (s.returnLane k) := by
  obtain ⟨hr, hd, hv, hh⟩ := (faultInv_iff s).1 h
  have counts : ∀ j, ((s.health.set k { count := 0, down := false }).get j).count ≤ 15 := by
    intro j
    rw [Quad.get_set]
    split
    · exact Nat.zero_le _
    · exact hh j
  unfold State.returnLane
  dsimp only
  split
  next hdown =>
    refine (faultInv_iff _).2 ⟨hr, ?_, hv, counts⟩
    obtain ⟨j, -, hj⟩ := ((anyDown_set s k _).1 hdown).resolve_left (by simp)
    rw [hdown]
    exact hd.trans ((anyDown_iff s).2 ⟨j, hj⟩)
  next hdown =>
    refine (faultInv_iff _).2 ⟨RecordInv.faultEnds (s := { s with health := s.health.set k _ }) hr _, ?_, ?_, by simpa using counts⟩
    · rw [State.faultEnds_isPending, anyDown_congr (State.faultEnds_health _ _), Bool.eq_false_iff.2 hdown]
      simp
    · rw [State.faultEnds_isPending]
      simpa using hv

theorem Kept.returnLane (s : State) (k : Fin 4) : Kept s (s.returnLane k) := by
  refine .ofFaults ?_ (fun h => h.returnLane k) fun h => ?_ <;> unfold State.returnLane <;> dsimp only <;> split
  · rfl
  · rw [State.faultEnds_eq]
  · exact h
  · rw [State.faultEnds_eq]; exact h

end Sys2Proof.Machine

namespace Sys2Proof.Machine

/-! ## The settings (R166, R189, R190, R192) -/

/-- Every value of these settings is of its range or code set. -/
def Settings.fits (r : Settings) : Prop := ∀ x : Setting, x.domain.holds (r.get x) = true

/-- A setting written does not change another. -/
theorem Settings.get_set_ne (r : Settings) {x y : Setting} (v : Nat) (h : y ≠ x) : (r.set x v).get y = r.get y := by
  cases x <;> cases y <;> first
    | rfl
    | exact absurd rfl h
    | exact PerType.get_set_ne _ _ fun he => h (by rw [he])
    | exact PerGrade.get_set_ne _ _ fun he => h (by rw [he])
    | exact Quad.get_set_ne _ _ fun he => h (by rw [he])
    | exact Oct.get_set_ne _ _ fun he => h (by rw [he])
    | exact congrArg LineFunction.code (Oct.get_set_ne _ _ fun he => h (by rw [he]))
    | exact congrArg Bool.toNat (Oct.get_set_ne _ _ fun he => h (by rw [he]))
    | exact congrArg BinClass.code (Oct.get_set_ne _ _ fun he => h (by rw [he]))

/-- Codes that an enumeration has are read back as they were written. -/
theorem Grade.code_getD {v : Nat} (g : Grade) (h : [0, 1, 2, 3].contains v = true) :
    ((Grade.ofCode v).getD g).code = v := by
  simp only [List.contains_iff_mem, List.mem_cons, List.not_mem_nil, or_false] at h
  rcases h with rfl | rfl | rfl | rfl <;> rfl

theorem BinClass.code_getD {v : Nat} (k : BinClass) (h : [0, 1, 2, 3, 4, 5, 6].contains v = true) :
    ((BinClass.ofCode v).getD k).code = v := by
  simp only [List.contains_iff_mem, List.mem_cons, List.not_mem_nil, or_false] at h
  rcases h with rfl | rfl | rfl | rfl | rfl | rfl | rfl <;> rfl

theorem boolCode_toNat {v : Nat} (b : Bool) (h : [0, 1].contains v = true) :
    (if v = 0 then false else if v = 1 then true else b).toNat = v := by
  simp only [List.contains_iff_mem, List.mem_cons, List.not_mem_nil, or_false] at h
  rcases h with rfl | rfl <;> rfl

theorem Policy.code_select {v : Nat} (p : Policy) (h : [0, 1].contains v = true) :
    (if v = 0 then Policy.whole else if v = 1 then .lane else p).code = v := by
  simp only [List.contains_iff_mem, List.mem_cons, List.not_mem_nil, or_false] at h
  rcases h with rfl | rfl <;> rfl

theorem LineFunction.code_getD {k : Fin 8} {v : Nat} (f : LineFunction)
    (h : (Setting.lineFunction k).domain.holds v = true) : ((LineFunction.ofCode v).getD f).code = v := by
  simp only [Setting.domain, Domain.holds, eight, List.map_cons, List.map_nil, List.cons_append, List.nil_append,
    List.contains_iff_mem, List.mem_cons, List.not_mem_nil, or_false] at h
  rcases h with rfl | rfl | rfl | rfl | rfl | rfl | rfl | rfl | rfl | rfl | rfl | rfl | rfl | rfl | rfl | rfl | rfl |
    rfl | rfl | rfl | rfl <;> rfl

/-- A setting written with a value of its range or code set is read back as that value. -/
theorem Settings.get_set_self (r : Settings) {x : Setting} {v : Nat} (h : x.domain.holds v = true) :
    (r.set x v).get x = v := by
  cases x with
  | patchTarget | partialCap => exact Grade.code_getD _ h
  | missingLanePolicy => exact Policy.code_select _ h
  | degradeA | degradeB | degradeC => exact boolCode_toNat _ h
  | lineFunction k => exact (congrArg LineFunction.code (Oct.get_set_self _ k _)).trans (LineFunction.code_getD _ h)
  | lineInvert k => exact (congrArg Bool.toNat (Oct.get_set_self _ k _)).trans (boolCode_toNat _ h)
  | binClass k => exact (congrArg BinClass.code (Oct.get_set_self _ k _)).trans (BinClass.code_getD _ h)
  | defectBase | defectSlope | defectFloor => exact PerType.get_set_self _ _ _
  | limitZone | limitTotal | limitOpen | limitThick => exact PerGrade.get_set_self _ _ _
  | laneZero | laneSpan | laneTempco => exact Quad.get_set_self _ _ _
  | binCapacity | binMargin => exact Oct.get_set_self _ _ _
  | _ => rfl

theorem Settings.fits.set {r : Settings} (h : r.fits) {x : Setting} {v : Nat} (hv : x.domain.holds v = true) :
    (r.set x v).fits := by
  intro y
  by_cases hy : y = x
  · subst hy
    rwa [Settings.get_set_self r hv]
  · rw [Settings.get_set_ne r v hy]
    exact h y

/-- What SET_SETTING installs is of the setting's range or code set (R190). -/
theorem Domain.take_holds {d : Domain} (hd : ∀ low high, d = .range low high → low ≤ high) {v held : Nat}
    {clamped : Bool} (h : d.take v = some (held, clamped)) : d.holds held = true := by
  cases d with
  | codes cs =>
    simp only [Domain.take] at h
    split at h
    next hc => cases h; exact hc
    next => cases h
  | range low high =>
    have hr := hd low high rfl
    simp only [Domain.take] at h
    split at h
    · cases h; simpa [Domain.holds] using hr
    · split at h <;> cases h
      · simpa [Domain.holds] using hr
      · simp only [Domain.holds, Bool.and_eq_true, decide_eq_true_eq]; omega

/-- The range of every setting is not empty (Table 10-2). -/
theorem Setting.domain_range (x : Setting) (low high : Nat) (h : x.domain = .range low high) : low ≤ high := by
  cases x <;> simp only [Setting.domain, Domain.range.injEq, reduceCtorEq] at h <;> omega

/-- The list of all settings names every one (Table 10-2). -/
theorem Setting.listed (x : Setting) : x ∈ allSettings := by
  cases x with
  | defectBase t | defectSlope t | defectFloor t => cases t <;> decide
  | limitZone g | limitTotal g | limitOpen g | limitThick g => cases g <;> decide
  | laneZero k | laneSpan k | laneTempco k | lineFunction k | lineInvert k | binClass k | binCapacity k | binMargin k =>
    revert k; decide
  | _ => decide

theorem Settings.defaults_fits : Settings.defaults.fits := by
  have listed : ∀ x ∈ allSettings, x.domain.holds (Settings.defaults.get x) = true := by decide
  exact fun x => listed x (Setting.listed x)

/-- What a load reads from an image is of the settings' ranges and code sets (R192). -/
theorem settingsOfImage_fits {bytes : List Byte} {r : Settings} (h : settingsOfImage bytes = some r) : r.fits := by
  unfold settingsOfImage at h
  dsimp only at h
  split at h
  next hc =>
    obtain ⟨-, -, -, hall⟩ := hc
    cases h
    have installed (l : List (Setting × Nat)) (hl : ∀ p ∈ l, p.1.domain.holds p.2 = true) (r : Settings) (hr : r.fits) :
        (l.foldl (fun r p => r.set p.1 p.2) r).fits := by
      induction l generalizing r with
      | nil => exact hr
      | cons p l ih => exact ih (fun q hq => hl q (by simp [hq])) _ (hr.set (hl p (by simp)))
    exact installed _ (fun p hp => List.all_eq_true.1 hall p hp) _ Settings.defaults_fits
  next => cases h

/-- A load leaves settings of their ranges and code sets: those read, or the defaults (R193). -/
theorem loadedSettings_fits {read : LoadRead} {r : Settings} (h : loadedSettings read = some r) : r.fits := by
  cases read with
  | noAck => cases h
  | image bytes => exact settingsOfImage_fits h

/-! ## The lines (R179, R181, R182, R189) -/

/-- A line fits its function: it has a debounced level exactly when that is an input, and only then a latch. -/
def Line.fits (l : Line) (f : LineFunction) : Prop :=
  l.debounced.isSome = f.isInput ∧ (l.latch = true → f.isInput = true)

theorem Line.reconfigure_fits (l : Line) (f : LineFunction) (invert : Bool) : (l.reconfigure f invert).fits f := by
  refine ⟨?_, fun h => by simp [Line.reconfigure] at h⟩
  simp only [Line.reconfigure]
  split <;> simp_all

theorem LineInv.install {s : State} (h : LineInv s) (r : Settings) : LineInv (s.install r) := by
  intro k
  simp only [State.install, Oct.get_of]
  split
  next hk => rw [← hk.1]; exact h k
  next => exact Line.reconfigure_fits _ _ _

/-- One line replaced by one that fits its function. -/
theorem LineInv.set {s : State} (h : LineInv s) (k : Fin 8) {l : Line} (hl : l.fits (s.ram.lineFunction.get k)) :
    LineInv { s with lines := s.lines.set k l } := by
  intro j
  dsimp only
  rw [Oct.get_set]
  split
  next hj => subst hj; exact hl
  next => exact h j

/-- A state that differs in its lines alone. -/
theorem Kept.ofLines {s t : State} (h : t = { s with lines := t.lines }) (hl : LineInv s → LineInv t) : Kept s t := by
  refine ⟨⟨?_, ?_, hl, ?_, ?_⟩, ?_⟩ <;> rw [h] <;> exact id

/-- RAM takes new values, where they are of their ranges and code sets. -/
theorem Kept.install (s : State) {r : Settings} (hr : s.ram.fits → r.fits) : Kept s (s.install r) :=
  ⟨⟨hr, id, fun h => h.install r, id, id⟩, id⟩

theorem Kept.setSetting (s : State) (key : Word) (value : BitVec 32) : Kept s (s.setSetting key value).1 := by
  unfold State.setSetting
  split
  · exact .refl s
  · split
    · exact .refl s
    next x _ =>
      unfold State.writeSetting
      split
      · exact .refl s
      · split
        · exact .refl s
        next held clamped ht =>
          exact (Kept.install s fun h => h.set (Domain.take_holds x.domain_range ht)).trans (.announce _ _)

theorem Kept.clearLatches (s : State) (clear : Byte) : Kept s (s.clearLatches clear) := by
  refine .ofLines rfl fun h k => ?_
  simp only [State.clearLatches, Oct.get_of]
  exact ⟨(h k).1, fun hk => (h k).2 (by simp_all)⟩

/-! ## The settings store and its bus (R166, R192 to R195) -/

/-- An operation of the settings store has ended, and the bus with it. -/
theorem Kept.endOperation (s : State) : Kept s { s with op := .idle, bus := .idle } := by
  refine ⟨⟨id, id, id, fun _ => ⟨rfl, fun _ => rfl⟩, id⟩, ?_⟩
  rintro ⟨ht, hv, hq, hi⟩
  exact ⟨ht, hv, fun h => hq (.inr (h.resolve_left (by simp))), hi⟩

/-- The settings become valid, which ends SETTINGS_INVALID (R193, R195). -/
theorem Kept.validated (s : State) : Kept s ({ s with settingsValid := true }.faultEnds .settingsInvalid) := by
  have faults (h : FaultInv s) : FaultInv ({ s with settingsValid := true }.faultEnds .settingsInvalid) := by
    obtain ⟨hr, hd, -, hh⟩ := (faultInv_iff s).1 h
    refine (faultInv_iff _).2 ⟨RecordInv.faultEnds (s := { s with settingsValid := true }) hr _, ?_, ?_, by simpa using hh⟩
    · rw [State.faultEnds_isPending, anyDown_congr (State.faultEnds_health _ _)]
      exact hd
    · simp [State.faultEnds_isPending]
  rw [State.faultEnds_eq] at faults ⊢
  exact ⟨⟨id, faults, id, id, id⟩, fun ⟨ht, _, hi⟩ => ⟨ht, fun _ => rfl, hi⟩⟩

/-- The settings of a STOPPED intake become invalid, which is an occurrence of SETTINGS_INVALID (R193). -/
theorem Kept.invalidated {s : State} (hs : SheetInv s → s.intake = .stopped) :
    Kept s ({ s with settingsValid := false }.faultOccurs .settingsInvalid) := by
  have faults (h : FaultInv s) : FaultInv ({ s with settingsValid := false }.faultOccurs .settingsInvalid) := by
    obtain ⟨hr, hd, -, hh⟩ := (faultInv_iff s).1 h
    refine (faultInv_iff _).2
      ⟨RecordInv.faultOccurs (s := { s with settingsValid := false }) hr _, ?_, by simp, by simpa using hh⟩
    rw [State.faultOccurs_isPending, anyDown_congr (State.faultOccurs_health _ _)]
    exact hd
  have ports (h : PortInv s) : PortInv ({ s with settingsValid := false }.faultOccurs .settingsInvalid) :=
    PortInv.faultOccurs (s := { s with settingsValid := false }) h _
  rw [State.faultOccurs_faults_eq] at faults ports ⊢
  exact ⟨⟨id, faults, id, id, ports⟩, fun h => ⟨h.1, fun hn => absurd (hs h) hn, h.2.2⟩⟩

/-- During a load the intake is STOPPED (R18, R192). -/
theorem SheetInv.stopped_of_loading {s : State} (h : SheetInv s) (hop : s.op = .loading) : s.intake = .stopped := by
  have hq := h.2.2.1 (.inl hop)
  simp only [State.quiet, Bool.and_eq_true, decide_eq_true_eq] at hq
  exact hq.1

theorem Kept.endLoad {s : State} (read : LoadRead) (hop : s.op = .loading) : Kept s (s.endLoad read) := by
  refine .trans ?_ (.announce _ _)
  refine .trans ?_ (.raise _ _)
  refine .trans ?_ (.endOperation _)
  split
  next r hr => exact (Kept.install s fun _ => loadedSettings_fits hr).trans (.validated _)
  next =>
    exact (Kept.install s fun _ => Settings.defaults_fits).trans (.invalidated fun h => h.stopped_of_loading hop)

theorem Kept.endStore (s : State) (result : StoreResult) : Kept s (s.endStore result) := by
  refine .trans ?_ (.raise _ _)
  refine .trans ?_ (.endOperation _)
  split
  · exact .validated s
  · exact .faultOccurs s rfl

/-- LOAD_SETTINGS begins on a quiet intake (R194). -/
theorem Kept.loadSettings {s : State} (hp : s.porstLow = false) : Kept s s.loadSettings.1 := by
  unfold State.loadSettings
  split
  · exact .refl s
  · split
    · exact .refl s
    next hq =>
      refine ⟨⟨id, id, id, fun _ => ⟨rfl, fun h => ?_⟩, id⟩, fun ⟨ht, hv, _, hi⟩ => ⟨ht, hv, fun _ => ?_, hi⟩⟩
      · exact absurd (hp.symm.trans h) (by simp)
      · exact (by simpa using hq : s.quiet = true)

theorem Kept.storeSettings {s : State} (hp : s.porstLow = false) : Kept s s.storeSettings.1 := by
  unfold State.storeSettings
  split
  · exact .refl s
  · refine ⟨⟨id, id, id, fun _ => ⟨rfl, fun h => ?_⟩, id⟩, fun ⟨ht, hv, hq, hi⟩ => ⟨ht, hv, fun h => ?_, hi⟩⟩
    · exact absurd (hp.symm.trans h) (by simp)
    · exact hq (.inr (h.resolve_left (by simp)))

/-- A state that differs in its bus and its lists alone. -/
theorem Kept.ofBus {s t : State} (h : t = { s with bus := t.bus, inputs := t.inputs, pending := t.pending })
    (hb : BusInv s → BusInv t) : Kept s t := by
  refine ⟨⟨?_, ?_, ?_, hb, ?_⟩, ?_⟩ <;> rw [h] <;> exact id

theorem Kept.enqueue (s : State) (c : Instr) : Kept s (s.enqueue c) := .aside rfl id

theorem BusEffect.kept {s t : State} (h : BusEffect s t) (hi : s.bus = .idle → t.bus = .idle) : Kept s t := by
  refine .ofBus ?_ fun hb => h.keeps hb hi
  obtain rfl | ⟨b, rfl, -⟩ | ⟨c, rfl⟩ := h <;> rfl

theorem Kept.busAck (s : State) (acked : Bool) : Kept s (s.busAck acked) :=
  (s.busAck_effect acked).kept fun h => by simp [State.busAck, h]

theorem Kept.busData (s : State) (b : Byte) : Kept s (s.busData b) :=
  (s.busData_effect b).kept fun h => by simp [State.busData, h]

/-! ## The orders and the bins -/

theorem Kept.admitHead {s t : State} (h : s.admitHead = some t) : Kept s t := by
  obtain ⟨k, o, rest, bs, -, -, -, rfl⟩ := State.admitHead_some h
  exact .after (.raise _ _) (.aside rfl id)

theorem Kept.admissions (s : State) : Kept s s.admissions :=
  State.admissions_induct (P := Kept s) (fun _ _ h ht => h.trans (.admitHead ht)) (.refl s)

theorem Kept.retryStalled (s : State) (k : Fin 2) : Kept s (s.retryStalled k) := by
  obtain h | ⟨a, bs, -, -, -, h⟩ := s.retryStalled_cases k <;> rw [h]
  · exact .refl s
  · exact .after (.raise _ _) (.aside rfl id)

theorem Kept.growth (s : State) : Kept s s.growth :=
  State.growth_induct (P := Kept s) (fun _ k h => h.trans (.retryStalled _ k)) (fun _ _ h ht => h.trans (.admitHead ht))
    (.refl s)

theorem Kept.afterRelease (s : State) (released : List (Fin 8)) : Kept s (s.afterRelease released) := by
  unfold State.afterRelease
  split
  · exact .admissions s
  · exact .growth s

theorem Kept.reportFinish (s : State) (number : Word) (outcome : Finish) : Kept s (s.reportFinish number outcome) :=
  .after (.raise _ _) (.aside rfl id)

theorem Kept.leaveSlot (s : State) (a : Active) (outcome : Finish) : Kept s (s.leaveSlot a outcome) :=
  .after (.reportFinish _ _ _) (.aside rfl id)

theorem Kept.setActive (s : State) (a : Active) : Kept s (s.setActive a) := .aside rfl id

theorem Kept.abort (s : State) (a : Active) (cause : AbortCause) : Kept s (s.abort a cause) := by
  unfold State.abort
  dsimp only
  split
  · exact .after (.afterRelease _ _) (.after (.leaveSlot _ _ _) (.aside rfl id))
  · exact .after (.afterRelease _ _) (.after (.setActive _ _) (.aside rfl id))

theorem Kept.settleSlot (b : Fin 8) (s : State) (k : Fin 2) : Kept s (State.settleSlot b s k) := by
  unfold State.settleSlot
  split
  · exact .refl s
  next a _ =>
    have settled (v : State) (hit left : Bool) (h : Kept s v) :
        Kept s ((v.raiseIf hit .withdrawn).raiseIf left .stalled) := (h.trans (.raiseIf _ _ _)).trans (.raiseIf _ _ _)
    split
    · split
      · exact .leaveSlot _ _ _
      · exact .refl s
    all_goals exact settled _ _ _ (.aside rfl id)

theorem Kept.settlement (s : State) (b : Fin 8) : Kept s (s.settlement b) :=
  State.settlement_induct (P := Kept s) (fun _ k h => h.trans (.settleSlot b _ k)) (.refl s)

theorem Kept.emptyBin (s : State) (b : Fin 8) : Kept s (s.emptyBin b) := by
  unfold State.emptyBin
  dsimp only
  split
  · exact .after (.admissions _) (.after (.settlement _ _) (.aside rfl id))
  · exact .after (.settlement _ _) (.aside rfl id)

theorem Kept.emptyByLine (s : State) (b : Fin 8) : Kept s (s.emptyByLine b) := by
  unfold State.emptyByLine
  split
  · exact .refl s
  · exact .emptyBin s b

theorem Kept.binState (s : State) (bin requested : Byte) : Kept s (s.binState bin requested).1 := by
  have changed (b : Fin 8) (m : BinMode) : Kept s (s.changeBin b m).1 :=
    .after (.announce _ _) (.after (.raise _ _) (.aside rfl id))
  unfold State.binState
  split
  next b m _ _ =>
    split
    · exact .refl s
    · unfold State.decideBin
      dsimp only
      split
      · exact changed _ _
      · exact .refl s
      · exact changed _ _
      · exact .refl s
      · exact changed _ _
      · exact .refl s
      · exact .refl s
      all_goals split; exacts [changed _ _, .refl s]
  next => exact .refl s

theorem Kept.emptied (s : State) (bin : Byte) : Kept s (s.emptied bin).1 := by
  unfold State.emptied
  split
  · exact .refl s
  · split
    · exact .refl s
    · exact .after (.announce _ _) (.emptyBin s _)

theorem Kept.takeOrder (s : State) (number : Word) (cls count : Byte) (plies : List Byte) :
    Kept s (s.takeOrder number cls count plies).1 := by
  unfold State.takeOrder
  split
  · exact .refl s
  · split
    · exact .refl s
    · split
      · exact .refl s
      · exact .after (.admissions _) (.aside rfl id)

theorem Kept.cancel (s : State) (number : Word) : Kept s (s.cancel number).1 := by
  unfold State.cancel
  split
  · unfold State.cancelWaiting
    dsimp only
    split
    · exact .after (.admissions _) (.after (.reportFinish _ _ _) (.aside rfl id))
    · exact .after (.reportFinish _ _ _) (.aside rfl id)
  · split
    · unfold State.cancelActive
      split
      · exact .refl s
      all_goals exact .abort s _ _
    · exact .refl s

theorem Kept.nextPly (s : State) (number : Word) : Kept s (s.nextPly number).1 := by
  have called (a : Active) : Kept s (s.callNext a).1 := by
    unfold State.callNext
    split
    · exact .refl s
    · split
      · exact .refl s
      · split
        · exact .refl s
        · exact .setActive s _
  unfold State.nextPly
  split
  · exact .refl s
  next a _ =>
    split
    · exact .refl s
    all_goals exact called a

theorem Kept.taken (s : State) (number : Word) : Kept s (s.taken number).1 := by
  have take (a : Active) (n : Nat) (b : Fin 8) : Kept s (s.take a n b) := by
    unfold State.take
    dsimp only
    split
    · exact .after (.admissions _) (.after (.leaveSlot _ _ _) (.aside rfl id))
    · exact .after (.setActive _ _) (.aside rfl id)
  have late (a : Active) (b : Fin 8) (c : AbortCause) : Kept s (s.takeLate a b c) :=
    .after (.admissions _) (.after (.leaveSlot _ _ _) (.aside rfl id))
  have called (a : Active) (n : Nat) (b : Fin 8) : Kept s (s.takeCalled a n b).1 := by
    unfold State.takeCalled
    split
    · exact .after (.announce _ _) (late _ _ _)
    all_goals exact .after (.announce _ _) (take _ _ _)
  unfold State.taken
  split
  · exact .refl s
  · unfold State.takeActive
    split
    · exact called _ _ _
    · split <;> exact .refl s

theorem Kept.uncall (s : State) (number : Word) : Kept s (s.uncall number).1 := by
  have closing (a : Active) (c : AbortCause) : Kept s (s.settleClosing a c) :=
    .after (.afterRelease _ _) (.after (.leaveSlot _ _ _) (.aside rfl id))
  unfold State.uncall
  split
  · exact .refl s
  · split
    · exact .refl s
    · unfold State.uncallActive
      split
      · exact closing _ _
      all_goals exact .setActive s _

/-! ## The lines' events -/

/-- The line whose debounced level changes keeps its fit: it has a debounced level, so its function is an input. -/
theorem Kept.lineEdge {s : State} {k : Fin 8} (hd : (s.lines.get k).debounced.isSome = true) :
    Kept s (s.lineEdge k) := by
  have edge : Kept s { s with
      lines := s.lines.set k { (s.lines.get k).settle true (s.ram.lineInvert.get k) with latch := true } } :=
    .ofLines rfl fun h => h.set k ⟨((h k).1.symm.trans hd).symm, fun _ => (h k).1.symm.trans hd⟩
  unfold State.lineEdge
  dsimp only
  split
  · exact edge.trans (.emptyByLine _ _)
  · exact edge

/-- A change of a line's debounced level keeps what its effect keeps. -/
theorem Kept.lineChange {s : State} {k : Fin 8} {active : Bool} {change : State → State}
    (hc : (s.lines.get k).debounced.isSome = true → Kept s (change s)) : Kept s (s.lineChange k active change) := by
  rcases s.lineChange_cases k active change with ⟨-, h⟩ | ⟨-, hd, h⟩ | ⟨-, -, h⟩ <;> rw [h]
  · exact .ofLines rfl fun hl => hl.set k (hl k)
  · exact hc (by rw [hd]; rfl)
  · exact .refl s

theorem Kept.settleInactive {s : State} {k : Fin 8} (hd : (s.lines.get k).debounced.isSome = true) :
    Kept s { s with lines := s.lines.set k ((s.lines.get k).settle false (s.ram.lineInvert.get k)) } :=
  .ofLines rfl fun h => h.set k ⟨((h k).1.symm.trans hd).symm, fun hl => (h k).2 hl⟩

theorem Kept.setPin (s : State) (k : Fin 8) (high : Bool) : Kept s (s.setPin k high) := by
  unfold State.setPin
  dsimp only
  split
  · exact .refl s
  · exact .ofLines rfl fun h => h.set k (h k)

end Sys2Proof.Machine

namespace Sys2Proof.Machine

/-! ## The sheet table as a list of entries (R7, R9, R14, R20) -/

/-- An entry by itself is as the invariant asks: SCANNING exactly while a lane is not final (R14), its count in its
range and carried over where it is PLACED (R20), its defect lists in their range (R12). -/
def Entry.sound (x : Entry) : Prop :=
  (x.isScanning = true ↔ x.allFinal = false) ∧ x.unscanned ≤ 255 ∧ (x.isPlaced → x.unscanned = 0) ∧ x.lanesFit

/-- The table's invariant but for what the engine's next take mends (R7, R9, R27). -/
structure TableFits (l : List Entry) : Prop where
  size : l.length ≤ 16
  tags : l.Pairwise fun x y => x.tag ≠ y.tag
  placed : l.Pairwise fun x y => y.isPlaced → x.isPlaced
  single : l.Pairwise fun x y => ¬ (x.state = .grading ∧ y.state = .grading)
  sound : ∀ x ∈ l, x.sound

/-- A READY entry waits only behind one in GRADING (R28). -/
def EngineServes (l : List Entry) : Prop := (∃ x ∈ l, x.state = .ready) → ∃ x ∈ l, x.state = .grading

/-- An entry replaced by one that does not wait for the engine, where it was not what the engine held. -/
theorem EngineServes.replace {older younger : List Entry} {e e' : Entry} (h : EngineServes (older ++ e :: younger))
    (hr : e'.state ≠ .ready) (hg : e.state ≠ .grading) : EngineServes (older ++ e' :: younger) := by
  have other {x : Entry} (hx : x ∈ older ++ younger) (y : Entry) : x ∈ older ++ y :: younger := by
    simp only [List.mem_append, List.mem_cons] at hx ⊢
    exact hx.imp id .inr
  have of_ne {x y : Entry} (hx : x ∈ older ++ y :: younger) (hn : x ≠ y) : x ∈ older ++ younger := by
    simp only [List.mem_append, List.mem_cons] at hx ⊢
    tauto
  rintro ⟨x, hx, hxr⟩
  obtain ⟨y, hy, hyg⟩ := h ⟨x, other (of_ne hx fun he => hr (he ▸ hxr)) e, hxr⟩
  exact ⟨y, other (of_ne hy fun he => hg (he ▸ hyg)) e', hyg⟩

theorem tableInv_iff (s : State) : TableInv s ↔ TableFits s.table ∧ EngineServes s.table ∧ s.ahead ≤ 255 := by
  constructor
  · rintro ⟨h1, h2, h3, h4, h5, h6, h7, h8⟩
    exact ⟨⟨h1, h2, h3, h4, fun x hx => ⟨h6 x hx, h7 x hx⟩⟩, h5, h8⟩
  · rintro ⟨⟨h1, h2, h3, h4, h5⟩, h6, h7⟩
    exact ⟨h1, h2, h3, h4, h6, fun x hx => (h5 x hx).1, fun x hx => (h5 x hx).2, h7⟩

theorem TableFits.sublist {l m : List Entry} (h : TableFits l) (hm : m.Sublist l) : TableFits m :=
  ⟨hm.length_le.trans h.size, h.tags.sublist hm, h.placed.sublist hm, h.single.sublist hm,
    fun x hx => h.sound x (hm.subset hx)⟩

/-- No other entry carries an entry's tag (R9). -/
theorem TableFits.others {older younger : List Entry} {e : Entry} (h : TableFits (older ++ e :: younger)) :
    ∀ x ∈ older ++ younger, x.tag ≠ e.tag := by
  have ht := h.tags
  rw [List.pairwise_append, List.pairwise_cons] at ht
  intro x hx
  rcases List.mem_append.mp hx with hx | hx
  · exact ht.2.2 x hx e (by simp)
  · exact fun he => ht.2.1.1 x hx he.symm

/-- A pairwise property goes over to a list in which one member is replaced. -/
theorem pairwise_replace {α : Type} {R : α → α → Prop} {l m : List α} {x y : α} (h : (l ++ x :: m).Pairwise R)
    (hl : ∀ a ∈ l, R a x → R a y) (hm : ∀ b ∈ m, R x b → R y b) : (l ++ y :: m).Pairwise R := by
  rw [List.pairwise_append, List.pairwise_cons] at h ⊢
  obtain ⟨h1, ⟨h2, h3⟩, h4⟩ := h
  refine ⟨h1, ⟨fun b hb => hm b hb (h2 b hb), h3⟩, fun a ha b hb => ?_⟩
  rcases List.mem_cons.1 hb with rfl | hb
  · exact hl a ha (h4 a ha x (by simp))
  · exact h4 a ha b (by simp [hb])

/-- One entry replaced: it keeps its tag; it is not un-PLACED, and PLACED only behind PLACED ones (R7, R84); it is in
GRADING only if it was, or if no other is (R27). -/
theorem TableFits.replace {older younger : List Entry} {e e' : Entry} (h : TableFits (older ++ e :: younger))
    (htag : e'.tag = e.tag) (hkeep : e.isPlaced → e'.isPlaced)
    (hplace : e'.isPlaced → e.isPlaced ∨ ∀ x ∈ older, x.isPlaced)
    (hgrading : e'.state = .grading → e.state = .grading ∨ ∀ x ∈ older ++ younger, x.state ≠ .grading)
    (hsound : e'.sound) : TableFits (older ++ e' :: younger) := by
  refine ⟨by simpa using h.size, ?_, ?_, ?_, fun x hx => ?_⟩
  · exact pairwise_replace h.tags (fun a _ ha => by rwa [htag]) fun b _ hb => by rwa [htag]
  · refine pairwise_replace h.placed (fun a ha hr hp => ?_) fun b _ hr hp => hkeep (hr hp)
    exact (hplace hp).elim hr fun hall => hall a ha
  · refine pairwise_replace h.single (fun a ha hr hg => ?_) fun b hb hr hg => ?_
    · exact (hgrading hg.2).elim (fun he => hr ⟨hg.1, he⟩) fun hall => hall a (by simp [ha]) hg.1
    · exact (hgrading hg.1).elim (fun he => hr ⟨he, hg.2⟩) fun hall => hall b (by simp [hb]) hg.2
  · rcases List.mem_append.1 hx with hx | hx
    · exact h.sound x (by simp [hx])
    · rcases List.mem_cons.1 hx with rfl | hx
      · exact hsound
      · exact h.sound x (by simp [hx])

/-- An entry opens at the young end (R10). -/
theorem TableFits.append {l : List Entry} {e : Entry} (h : TableFits l) (hlen : l.length < 16)
    (htag : ∀ x ∈ l, x.tag ≠ e.tag) (hp : e.isPlaced = false) (hg : e.state ≠ .grading) (hs : e.sound) :
    TableFits (l ++ [e]) := by
  have last {R : Entry → Entry → Prop} (hl : l.Pairwise R) (he : ∀ x ∈ l, R x e) : (l ++ [e]).Pairwise R :=
    List.pairwise_append.2 ⟨hl, List.pairwise_singleton _ _, fun x hx y hy => by
      rw [List.mem_singleton.1 hy]; exact he x hx⟩
  refine ⟨by simp only [List.length_append, List.length_singleton]; omega, last h.tags htag,
    last h.placed fun x _ hpl => by simp [hp] at hpl, last h.single fun x _ hx => hg hx.2, fun x hx => ?_⟩
  rcases List.mem_append.1 hx with hx | hx
  · exact h.sound x hx
  · rw [List.mem_singleton.1 hx]; exact hs

/-- The table after a change of each entry that keeps what the invariant looks at. -/
theorem TableFits.map {l : List Entry} {f : Entry → Entry} (h : TableFits l) (htag : ∀ x, (f x).tag = x.tag)
    (hp : ∀ x, (f x).isPlaced = x.isPlaced) (hg : ∀ x, (f x).state = .grading ↔ x.state = .grading)
    (hs : ∀ x, x.sound → (f x).sound) : TableFits (l.map f) := by
  refine ⟨by simpa using h.size, ?_, ?_, ?_, ?_⟩
  · simpa [List.pairwise_map, htag] using h.tags
  · simpa [List.pairwise_map, hp] using h.placed
  · simpa [List.pairwise_map, hg] using h.single
  · intro x hx
    obtain ⟨y, hy, rfl⟩ := List.mem_map.1 hx
    exact hs y (h.sound y hy)

/-- An entry that a search finds, and the table split at it. -/
theorem find_split_iff {l : List Entry} {f : Entry → Bool} {e : Entry} (h : l.find? f = some e) :
    f e = true ∧ ∃ older younger, l = older ++ e :: younger ∧ ∀ x ∈ older, f x = false := by
  obtain ⟨he, older, younger, hl, ho⟩ := List.find?_eq_some_iff_append.1 h
  exact ⟨he, older, younger, hl, fun x hx => by simpa using ho x hx⟩

/-! ## The intake's held tags (R16, R17) -/

/-- The tag is that of a SCANNING entry. -/
def scanningTag (l : List Entry) (tag : Byte) : Prop := ∃ x ∈ l, x.tag = tag ∧ x.isScanning

/-- No entry of the table is SCANNING, READY or GRADING (R18). -/
def settledTable (l : List Entry) : Prop :=
  ∀ e ∈ l, (∀ left, e.state ≠ .scanning left) ∧ e.state ≠ .ready ∧ e.state ≠ .grading

theorem quiet_iff (s : State) : s.quiet = true ↔ s.intake = .stopped ∧ settledTable s.table := by
  unfold State.quiet settledTable
  rw [Bool.and_eq_true, decide_eq_true_eq, List.all_eq_true]
  refine and_congr_right fun _ => forall₂_congr fun e _ => ?_
  cases e.state <;> simp

/-- Everything of the intake's invariant, for any table. -/
structure IntakeFits (s : State) (l : List Entry) : Prop where
  valid : s.intake ≠ .stopped → s.settingsValid = true
  quiet : s.op = .loading ∨ s.porstLow = true → s.intake = .stopped ∧ settledTable l
  suspended : s.intake = .suspended → s.suspended.isSome ∧ s.resuming = none
  resuming : ∀ tag, s.resuming = some tag → s.suspended.isSome ∧ scanningTag l tag
  heir : ∀ tag, s.retired.bind Retired.heir = some tag → scanningTag l tag
  stopped : s.intake = .stopped → s.suspended = none ∧ s.resuming = none

theorem intakeInv_iff (s : State) : IntakeInv s ↔ IntakeFits s s.table := by
  unfold IntakeInv
  rw [quiet_iff]
  constructor
  · rintro ⟨h1, h2, h3, h4, h5, h6⟩
    exact ⟨h1, h2, h3, h4, h5, h6⟩
  · rintro ⟨h1, h2, h3, h4, h5, h6⟩
    exact ⟨h1, h2, h3, h4, h5, h6⟩

/-- The table changes, and the entries that are held for stay in SCANNING. -/
theorem IntakeFits.table {s : State} {l m : List Entry} (h : IntakeFits s l) (hq : settledTable l → settledTable m)
    (ht : ∀ tag, scanningTag l tag → scanningTag m tag) : IntakeFits s m :=
  ⟨h.valid, fun hl => (h.quiet hl).imp_right hq, h.suspended, fun tag ht' => (h.resuming tag ht').imp_right (ht tag),
    fun tag ht' => ht tag (h.heir tag ht'), h.stopped⟩

/-- The table changes, and what was held for the entry of a tag is let go (R16). -/
theorem IntakeFits.letGo {s : State} {l m : List Entry} (h : IntakeFits s l) (tag : Byte)
    (hq : settledTable l → settledTable m) (ht : ∀ tag', tag' ≠ tag → scanningTag l tag' → scanningTag m tag') :
    IntakeFits (s.letGo tag) m := by
  rw [State.letGo_eq]
  refine ⟨h.valid, fun hl => (h.quiet hl).imp_right hq, fun hs => ?_, fun t hr => ?_, fun t hr => ?_, fun hs => ?_⟩ <;>
    dsimp only at *
  · obtain ⟨h1, h2⟩ := h.suspended hs
    simp [h1, h2]
  · split at hr
    · cases hr
    next hn =>
      obtain ⟨h1, h2⟩ := h.resuming t hr
      exact ⟨by rwa [if_neg hn], ht t (fun he => hn (he ▸ hr)) h2⟩
  · split at hr
    · cases hr
    next hn => exact ht t (fun he => hn (he ▸ hr)) (h.heir t hr)
  · obtain ⟨h1, h2⟩ := h.stopped hs
    simp [h1, h2]

/-! ## The engine and the entries (R14, R27, R28) -/

/-- The invariants of the sheets but for what the engine's next take mends. -/
structure Untaken (s : State) : Prop where
  fits : TableFits s.table
  ahead : s.ahead ≤ 255
  intake : IntakeFits s s.table

theorem sheetInv_iff (s : State) : SheetInv s ↔ Untaken s ∧ EngineServes s.table := by
  unfold SheetInv
  rw [tableInv_iff, intakeInv_iff]
  constructor
  · rintro ⟨⟨h1, h2, h3⟩, h4⟩; exact ⟨⟨h1, h3, h4⟩, h2⟩
  · rintro ⟨⟨h1, h3, h4⟩, h2⟩; exact ⟨⟨h1, h2, h3⟩, h4⟩

theorem engineBusy_iff (s : State) : s.engineBusy = true ↔ ∃ x ∈ s.table, x.state = .grading := by
  simp [State.engineBusy]

/-- What the engine's take does: nothing, or it takes the oldest READY entry (R27, R28). -/
theorem State.engineTake_cases (s : State) (h : TableFits s.table) :
    (EngineServes s.table ∧ s.engineTake = s) ∨
    ∃ older e younger, s.table = older ++ e :: younger ∧ (∀ x ∈ older, x.state ≠ .ready) ∧ e.state = .ready ∧
      (∀ x ∈ s.table, x.state ≠ .grading) ∧
      s.engineTake = { s with table := older ++ { e with state := .grading } :: younger } := by
  by_cases hb : s.engineBusy = true
  · exact .inl ⟨fun _ => (engineBusy_iff s).1 hb, s.engineTake_none (.inl hb)⟩
  · cases hr : s.table.find? fun e => e.state = .ready with
    | none =>
      have none_ready : ∀ x ∈ s.table, x.state ≠ .ready := by simpa using hr
      exact .inl ⟨fun ⟨x, hx, hs⟩ => absurd hs (none_ready x hx), s.engineTake_none (.inr none_ready)⟩
    | some e =>
      obtain ⟨he, older, younger, hl, ho⟩ := find_split_iff hr
      have ho : ∀ x ∈ older, x.state ≠ .ready := fun x hx => by simpa using ho x hx
      have he : e.state = .ready := by simpa using he
      refine .inr ⟨older, e, younger, hl, ho, he, ?_, ?_⟩
      · intro x hx hg
        exact hb ((engineBusy_iff s).2 ⟨x, hx, hg⟩)
      · exact s.engineTake_some (by simpa using hb) hl ho he (by rw [hl] at h; exact h.others)

/-- The take mends what it has to: a READY entry waits only behind one in GRADING. -/
theorem Untaken.engineTake {s : State} (h : Untaken s) : SheetInv s.engineTake := by
  obtain ⟨hs, ht⟩ | ⟨older, e, younger, hl, -, he, hg, ht⟩ := s.engineTake_cases h.fits <;> rw [ht]
  · exact (sheetInv_iff s).2 ⟨h, hs⟩
  · have hsound : e.sound := h.fits.sound e (by simp [hl])
    have hfits := h.fits
    have hintake := h.intake
    rw [hl] at hfits hg hintake
    refine (sheetInv_iff _).2 ⟨⟨?_, h.ahead, ?_⟩, fun _ => ⟨{ e with state := .grading }, by simp, rfl⟩⟩
    · refine hfits.replace rfl (by simp [Entry.isPlaced, he]) (by simp [Entry.isPlaced])
        (fun _ => .inr fun x hx => hg x (by simp only [List.mem_append, List.mem_cons] at hx ⊢; tauto)) ?_
      simpa [Entry.sound, Entry.isScanning, Entry.isPlaced, Entry.allFinal, he] using hsound
    · refine IntakeFits.table (s := { s with table := _ }) ⟨hintake.1, hintake.2, hintake.3, hintake.4, hintake.5, hintake.6⟩ (fun hq => ?_) fun tag hx => ?_
      · exact absurd he (hq e (by simp)).2.1
      · obtain ⟨x, hx, hxt, hxs⟩ := hx
        rcases List.mem_append.1 hx with hx | hx
        · exact ⟨x, by simp [hx], hxt, hxs⟩
        · rcases List.mem_cons.1 hx with rfl | hx
          · simp [Entry.isScanning, he] at hxs
          · exact ⟨x, by simp [hx], hxt, hxs⟩

end Sys2Proof.Machine

namespace Sys2Proof.Machine

/-! ## What the operations on the sheets leave alone -/

/-- Only the sheet table, the intake and the scan receiver's counters differ. -/
def SheetsOnly (s t : State) : Prop :=
  t = { s with
    table := t.table, ahead := t.ahead, sheetCounter := t.sheetCounter, intake := t.intake
    suspended := t.suspended, resuming := t.resuming, retired := t.retired, missed := t.missed, stray := t.stray }

theorem SheetsOnly.trans {s t u : State} (h : SheetsOnly s t) (k : SheetsOnly t u) : SheetsOnly s u := by
  unfold SheetsOnly at *
  rw [k, h]

theorem SheetsOnly.after {s t u : State} (k : SheetsOnly t u) (h : SheetsOnly s t) : SheetsOnly s u := h.trans k

theorem SheetsOnly.others {s t : State} (h : SheetsOnly s t) : OthersKept s t := by
  unfold SheetsOnly at h
  refine ⟨?_, ?_, ?_, ?_, ?_⟩ <;> rw [h] <;> exact id

theorem SheetsOnly.kept {s t : State} (h : SheetsOnly s t) (hs : SheetInv s → SheetInv t) : Kept s t := ⟨h.others, hs⟩

theorem SheetsOnly.letGo (s : State) (tag : Byte) : SheetsOnly s (s.letGo tag) := by
  rw [State.letGo_eq]; rfl

theorem SheetsOnly.setEntry (s : State) (e : Entry) : SheetsOnly s (s.setEntry e) := rfl

theorem SheetsOnly.engineTake (s : State) : SheetsOnly s s.engineTake := by
  unfold State.engineTake
  split
  · rfl
  · split
    · exact .setEntry s _
    · rfl

theorem SheetsOnly.becomeReady (s : State) (e : Entry) : SheetsOnly s (s.becomeReady e) :=
  .after (.engineTake _) (.after (.letGo _ _) (.setEntry _ _))

theorem SheetsOnly.removeEntry (s : State) (e : Entry) : SheetsOnly s (s.removeEntry e) :=
  .after (.engineTake _) (.after (.letGo _ _) rfl)

theorem SheetsOnly.deliver (s : State) (e : Entry) (k : Fin 4) (m : LaneMessage) : SheetsOnly s (s.deliver e k m) := by
  have stored (e' : Entry) : SheetsOnly s (if e'.allFinal then s.becomeReady e' else s.setEntry e') := by
    split
    · exact .becomeReady s e'
    · exact .setEntry s e'
  unfold State.deliver
  split
  · exact stored _
  · exact stored _
  all_goals rfl

theorem SheetsOnly.noteOpening (s : State) (tag : Byte) : SheetsOnly s (s.noteOpening tag) := by
  unfold State.noteOpening
  dsimp only
  split <;> rfl

theorem SheetsOnly.openEntry (s : State) (tag : Byte) (k : Fin 4) (m : LaneMessage) :
    SheetsOnly s (s.openEntry tag k m) := by
  unfold State.openEntry
  dsimp only
  split
  · exact .after (.becomeReady _ _) (.after (.noteOpening _ _) rfl)
  · exact .after (.deliver _ _ _ _) (.after (.noteOpening _ _) rfl)

/-! ## Lanes and entries -/

theorem Lane.receive_lanesFit {l : Lane} (h : l.defects.length ≤ 24) (m : LaneMessage) :
    (l.receive m).defects.length ≤ 24 := by
  rcases m with d | _ | _ | _
  · by_cases hd : l.defects.length < 24 <;> simp [Lane.receive, Config.defectsPerLane, hd]
    all_goals omega
  all_goals exact h

theorem Entry.isScanning_iff (e : Entry) : e.isScanning = true ↔ ∃ left, e.state = .scanning left := by
  unfold Entry.isScanning
  cases e.state <;> simp

theorem Entry.isPlaced_iff (e : Entry) : e.isPlaced = true ↔ ∃ r b, e.state = .placed r b := by
  unfold Entry.isPlaced
  cases e.state <;> simp

theorem Entry.allFinal_iff (e : Entry) : e.allFinal = true ↔ ∀ k, (e.lanes.get k).state.final = true := by
  simp [Entry.allFinal]

theorem Entry.not_placed_of_scanning {e : Entry} (h : e.isScanning = true) : e.isPlaced = false := by
  obtain ⟨left, h⟩ := e.isScanning_iff.1 h
  simp [Entry.isPlaced, h]

/-! ## An entry replaced or removed -/

theorem scanningTag_replace {older younger : List Entry} {e e' : Entry} {tag : Byte}
    (he : e.isScanning = true → e'.tag = e.tag ∧ e'.isScanning = true) (h : scanningTag (older ++ e :: younger) tag) :
    scanningTag (older ++ e' :: younger) tag := by
  obtain ⟨x, hx, ht, hs⟩ := h
  rcases List.mem_append.1 hx with hx | hx
  · exact ⟨x, by simp [hx], ht, hs⟩
  · rcases List.mem_cons.1 hx with rfl | hx
    · exact ⟨e', by simp, (he hs).1.trans ht, (he hs).2⟩
    · exact ⟨x, by simp [hx], ht, hs⟩

theorem scanningTag_replace_ne {older younger : List Entry} {e e' : Entry} {tag : Byte} (hn : tag ≠ e.tag)
    (h : scanningTag (older ++ e :: younger) tag) : scanningTag (older ++ e' :: younger) tag := by
  obtain ⟨x, hx, ht, hs⟩ := h
  rcases List.mem_append.1 hx with hx | hx
  · exact ⟨x, by simp [hx], ht, hs⟩
  · rcases List.mem_cons.1 hx with rfl | hx
    · exact absurd ht.symm hn
    · exact ⟨x, by simp [hx], ht, hs⟩

theorem settledTable_replace {older younger : List Entry} {e e' : Entry}
    (he : (∀ left, e'.state ≠ .scanning left) ∧ e'.state ≠ .ready ∧ e'.state ≠ .grading)
    (h : settledTable (older ++ e :: younger)) : settledTable (older ++ e' :: younger) := by
  intro x hx
  rcases List.mem_append.1 hx with hx | hx
  · exact h x (by simp [hx])
  · rcases List.mem_cons.1 hx with rfl | hx
    · exact he
    · exact h x (by simp [hx])

/-- While an entry is SCANNING the table is not settled. -/
theorem not_settled_of_scanning {older younger : List Entry} {e : Entry} (he : e.isScanning = true) :
    ¬ settledTable (older ++ e :: younger) := by
  obtain ⟨left, he⟩ := e.isScanning_iff.1 he
  exact fun h => (h e (by simp)).1 left he

theorem Untaken.setTable {s : State} (h : Untaken s) {l : List Entry} (hl : TableFits l) (hi : IntakeFits s l) :
    Untaken { s with table := l } :=
  ⟨hl, h.ahead, hi.1, hi.2, hi.3, hi.4, hi.5, hi.6⟩

/-- The tags held for an entry are let go, with a table in which the others stand. -/
theorem Untaken.letGo {s : State} (h : Untaken s) {l : List Entry} (hl : TableFits l) (tag : Byte)
    (hq : settledTable s.table → settledTable l)
    (ht : ∀ tag', tag' ≠ tag → scanningTag s.table tag' → scanningTag l tag') :
    Untaken ({ s with table := l }.letGo tag) := by
  have hi := h.intake.letGo tag hq ht
  rw [State.letGo_eq] at hi ⊢
  exact ⟨hl, h.ahead, hi.1, hi.2, hi.3, hi.4, hi.5, hi.6⟩

/-- An entry whose lanes have all become final becomes READY (R14, R16, R28). -/
theorem Untaken.becomeReady {s : State} (h : Untaken s) {older younger : List Entry} {e e' : Entry}
    (hs : s.table = older ++ e :: younger) (he : e.isScanning = true) (htag : e'.tag = e.tag)
    (hfinal : e'.allFinal = true) (hcount : e'.unscanned ≤ 255) (hlanes : e'.lanesFit) :
    SheetInv (s.becomeReady e') := by
  have hfits := h.fits
  rw [hs] at hfits
  unfold State.becomeReady
  rw [s.setEntry_split (e' := { e' with state := .ready }) hs htag hfits.others]
  refine Untaken.engineTake (h.letGo ?_ _ ?_ ?_)
  · refine hfits.replace htag (by simp [Entry.not_placed_of_scanning he]) (by simp [Entry.isPlaced]) (by simp) ?_
    have hall : Entry.allFinal { e' with state := .ready } = true := hfinal
    exact ⟨by simp [Entry.isScanning, hall], hcount, by simp [Entry.isPlaced], hlanes⟩
  · rw [hs]; exact fun hq => absurd hq (not_settled_of_scanning he)
  · rw [hs]; exact fun tag hn => scanningTag_replace_ne (by rwa [htag] at hn)

/-- An entry leaves the table (R7, R16, R28). -/
theorem Untaken.removeEntry {s : State} (h : Untaken s) (e : Entry) : SheetInv (s.removeEntry e) := by
  unfold State.removeEntry
  refine Untaken.engineTake (h.letGo (h.fits.sublist List.filter_sublist) _ ?_ ?_)
  · exact fun hq x hx => hq x (List.mem_filter.1 hx).1
  · rintro tag hn ⟨x, hx, rfl, hsc⟩
    exact ⟨x, List.mem_filter.2 ⟨hx, by simpa using hn⟩, rfl, hsc⟩

theorem Untaken.carryUnscanned {s : State} (h : Untaken s) (e : Entry) : Untaken (s.carryUnscanned e) :=
  ⟨h.fits, Nat.min_le_left _ _, h.intake.1, h.intake.2, h.intake.3, h.intake.4, h.intake.5, h.intake.6⟩

theorem SheetInv.untaken {s : State} (h : SheetInv s) : Untaken s := ((sheetInv_iff s).1 h).1

/-- A state whose sheets are those of another. -/
theorem Untaken.congr {s t : State} (h : Untaken s) (h1 : t.table = s.table) (h2 : t.ahead = s.ahead)
    (h3 : t.intake = s.intake) (h4 : t.suspended = s.suspended) (h5 : t.resuming = s.resuming)
    (h6 : t.retired = s.retired) (h7 : t.settingsValid = s.settingsValid) (h8 : t.op = s.op)
    (h9 : t.porstLow = s.porstLow) : Untaken t := by
  obtain ⟨hf, ha, i1, i2, i3, i4, i5, i6⟩ := h
  exact ⟨by rwa [h1], by rwa [h2], by rwa [h3, h7], by rwa [h1, h3, h8, h9], by rwa [h3, h4, h5], by rwa [h1, h4, h5],
    by rwa [h1, h6], by rwa [h3, h4, h5]⟩

/-! ## Messages (R9 to R16) -/

theorem Kept.countStray (s : State) : Kept s s.countStray := .aside rfl id

/-- An entry that is replaced and stays SCANNING leaves the sheets as the invariant asks. -/
theorem SheetInv.setScanning {s : State} (h : SheetInv s) {older younger : List Entry} {e e' : Entry}
    (hs : s.table = older ++ e :: younger) (he : e.isScanning = true) (htag : e'.tag = e.tag)
    (hstate : e'.isScanning = true) (hsound : e'.sound) : SheetInv (s.setEntry e') := by
  obtain ⟨hu, hserve⟩ := (sheetInv_iff s).1 h
  have hfits := hu.fits
  have hintake := hu.intake
  rw [hs] at hfits hintake hserve
  rw [s.setEntry_split hs htag hfits.others]
  obtain ⟨left, hl⟩ := e.isScanning_iff.1 he
  obtain ⟨left', hl'⟩ := e'.isScanning_iff.1 hstate
  refine (sheetInv_iff _).2 ⟨hu.setTable ?_ (hintake.table ?_ fun tag => scanningTag_replace fun _ => ⟨htag, hstate⟩), ?_⟩
  · exact hfits.replace htag (by simp [Entry.isPlaced, hl]) (by simp [Entry.isPlaced, hl']) (by simp [hl']) hsound
  · exact fun hq => absurd hq (not_settled_of_scanning he)
  · exact hserve.replace (by simp [hl']) (by simp [hl])

/-- A delivery to a lane of a SCANNING entry (R11, R14). -/
theorem SheetInv.deliver {s : State} (h : SheetInv s) {older younger : List Entry} {e : Entry}
    (hs : s.table = older ++ e :: younger) (he : e.isScanning = true) (k : Fin 4) (m : LaneMessage) :
    SheetInv (s.deliver e k m) := by
  obtain ⟨hsc, hcount, hzero, hlanes⟩ := h.untaken.fits.sound e (by simp [hs])
  have stored : SheetInv
      (let e' := { e with lanes := e.lanes.set k ((e.lanes.get k).receive m) }
       if e'.allFinal then s.becomeReady e' else s.setEntry e') := by
    have hfit : Entry.lanesFit { e with lanes := e.lanes.set k ((e.lanes.get k).receive m) } := by
      intro j
      dsimp only
      rw [Quad.get_set]
      split
      · exact Lane.receive_lanesFit (hlanes k) m
      · exact hlanes j
    dsimp only
    split
    next hall => exact h.untaken.becomeReady (e' := { e with lanes := _ }) hs he rfl hall hcount hfit
    next hall =>
      exact h.setScanning (e' := { e with lanes := _ }) hs he rfl he
        ⟨⟨fun _ => by simpa using hall, fun _ => he⟩, hcount, hzero, hfit⟩
  unfold State.deliver
  split
  · exact stored
  · exact stored
  all_goals exact h

theorem openingLanes_get (h : Quad LaneHealth) (k : Fin 4) :
    (openingLanes h).get k = Lane.empty (if (h.get k).down then .missing .down else .waiting) := by
  simp [openingLanes]

theorem Entry.scanning_sound {e : Entry} (hs : e.isScanning = true) (hf : e.allFinal = false) (hc : e.unscanned ≤ 255)
    (hl : e.lanesFit) : e.sound :=
  ⟨⟨fun _ => hf, fun _ => hs⟩, hc, fun hp => by simp [Entry.not_placed_of_scanning hs] at hp, hl⟩

theorem State.newEntry_lanesFit (s : State) (tag : Byte) : (s.newEntry tag).lanesFit := by
  intro k
  simp [State.newEntry, openingLanes_get, Lane.empty]

/-- What an opening does to the held tags (R10, R16). -/
theorem State.noteOpening_eq (s : State) (tag : Byte) :
    s.noteOpening tag = { s with
      intake := if s.intake = .suspended then .running else s.intake
      resuming := if s.intake = .suspended then some tag else s.resuming
      retired := s.retired.map fun r => if r.heir = none then { r with heir := some tag } else r } := by
  unfold State.noteOpening
  dsimp only
  split <;> simp_all

/-- An opening holds tags for entries that are SCANNING (R10, R16). -/
theorem IntakeFits.noteOpening {s : State} {l m : List Entry} (h : IntakeFits s l) (hi : s.intake ≠ .stopped)
    {tag : Byte} (ht : ∀ tag', scanningTag l tag' → scanningTag m tag') (hn : scanningTag m tag) :
    IntakeFits (s.noteOpening tag) m := by
  rw [State.noteOpening_eq]
  refine ⟨fun _ => h.valid hi, fun hl => absurd (h.quiet hl).1 hi, fun hs => ?_, fun t hr => ?_, fun t hr => ?_,
    fun hs => ?_⟩ <;> dsimp only at *
  · split at hs
    · cases hs
    next hn => exact absurd hs hn
  · split at hr
    next hs => cases hr; exact ⟨(h.suspended hs).1, hn⟩
    next => exact (h.resuming t hr).imp_right (ht t)
  · cases hret : s.retired with
    | none => simp [hret] at hr
    | some r =>
      simp only [hret, Option.map_some, Option.bind_some] at hr
      split at hr
      next => cases hr; exact hn
      next => exact ht t (h.heir t (by rw [hret]; exact hr))
  · split at hs
    · cases hs
    next => exact absurd hs hi

/-- A new tag opens its entry, and the entry takes the message (R8, R10, R14). -/
theorem SheetInv.openEntry {s : State} (h : SheetInv s) {tag : Byte} (hi : s.intake ≠ .stopped)
    (hlen : s.table.length < 16) (hnew : ∀ x ∈ s.table, x.tag ≠ tag) (k : Fin 4) (m : LaneMessage) :
    SheetInv (s.openEntry tag k m) := by
  obtain ⟨⟨hfits, hahead, hintake⟩, hserve⟩ := (sheetInv_iff s).1 h
  have hscan : (s.newEntry tag).isScanning = true := rfl
  have intake : IntakeFits ({ s with table := s.table ++ [s.newEntry tag], sheetCounter := s.sheetCounter + 1
                              }.noteOpening tag) (s.table ++ [s.newEntry tag]) := by
    refine IntakeFits.noteOpening
      (s := { s with table := s.table ++ [s.newEntry tag], sheetCounter := s.sheetCounter + 1 }) (l := s.table)
      ⟨hintake.1, hintake.2, hintake.3, hintake.4, hintake.5, hintake.6⟩ hi ?_
      ⟨s.newEntry tag, List.mem_append_right _ (List.mem_singleton_self _), rfl, hscan⟩
    rintro tag' ⟨x, hx, hxt⟩
    exact ⟨x, by simp [hx], hxt⟩
  unfold State.openEntry
  dsimp only
  rw [State.noteOpening_eq] at intake ⊢
  split
  next hall =>
    unfold State.becomeReady
    rw [State.setEntry_split (older := s.table) (younger := []) (e := s.newEntry tag)
      (e' := { s.newEntry tag with state := .ready }) rfl rfl
      fun x hx => hnew x (by simpa using hx)]
    refine Untaken.engineTake ?_
    have released := intake.letGo (m := s.table ++ [{ s.newEntry tag with state := .ready }]) tag
      (fun hq => absurd hq (not_settled_of_scanning hscan)) fun tag' hn => scanningTag_replace_ne hn
    rw [State.letGo_eq] at released ⊢
    refine ⟨hfits.append hlen hnew rfl (fun hg => by cases hg) ?_, hahead, released.1, released.2, released.3, released.4, released.5,
      released.6⟩
    have final : Entry.allFinal { s.newEntry tag with state := .ready } = true := hall
    exact ⟨by simp [Entry.isScanning, final], Nat.zero_le _, by simp [Entry.isPlaced], s.newEntry_lanesFit tag⟩
  next hall =>
    refine SheetInv.deliver (older := s.table) (younger := []) ?_ rfl hscan k m
    refine (sheetInv_iff _).2 ⟨⟨hfits.append hlen hnew rfl (fun hg => by cases hg) ?_, hahead, intake⟩, ?_⟩
    · exact Entry.scanning_sound hscan (by simpa using hall) (Nat.zero_le _) (s.newEntry_lanesFit tag)
    · rintro ⟨x, hx, hr⟩
      rcases List.mem_append.1 hx with hx | hx
      · obtain ⟨y, hy, hg⟩ := hserve ⟨x, hx, hr⟩
        exact ⟨y, by simp [hy], hg⟩
      · rw [List.mem_singleton.1 hx] at hr
        simp [State.newEntry] at hr

/-- SYNC_LOST occurs or not: the sheets are the same (R20). -/
theorem Kept.syncCheck (s : State) (n : Nat) : Kept s (s.syncCheck n) := by
  unfold State.syncCheck
  split
  · exact .faultOccurs s rfl
  · exact .refl s

/-- Only the count after the youngest entry, when that is unplaced, or the pending count changes at a missed sheet
(R20). -/
theorem Kept.countMissed (s : State) : Kept s s.countMissed := by
  have ahead : Kept s s.missAhead := by
    refine .after (.syncCheck _ _) (SheetsOnly.kept rfl fun h => ?_)
    obtain ⟨⟨hf, -, hi⟩, hserve⟩ := (sheetInv_iff s).1 h
    exact (sheetInv_iff _).2 ⟨⟨hf, Nat.min_le_left _ _, hi.1, hi.2, hi.3, hi.4, hi.5, hi.6⟩, hserve⟩
  unfold State.countMissed
  split
  next e hlast =>
    split
    · exact ahead
    next hp =>
      refine .after (.syncCheck _ _) (SheetsOnly.kept (.setEntry _ _) fun h => ?_)
      obtain ⟨older, hl⟩ := List.getLast?_eq_some_iff.1 hlast
      obtain ⟨hu, hserve⟩ := (sheetInv_iff s).1 h
      obtain ⟨h1, -, -, h4⟩ := hu.fits.sound e (by simp [hl])
      have hfits := hu.fits
      have hintake := hu.intake
      rw [hl] at hfits hintake hserve
      rw [s.setEntry_split (e := e) (e' := { e with unscanned := satSucc Config.unscannedMax e.unscanned }) hl rfl
        hfits.others]
      refine (sheetInv_iff _).2 ⟨hu.setTable ?_ (hintake.table ?_ fun tag => scanningTag_replace fun hs => ⟨rfl, hs⟩), ?_⟩
      · refine hfits.replace rfl id .inl .inl ⟨h1, Nat.min_le_left _ _, fun hpl => absurd hpl hp, h4⟩
      · exact fun hq => settledTable_replace (hq e (by simp)) hq
      · simpa [EngineServes] using hserve
  next => exact ahead

/-- A missed sheet suspends an intake that is not STOPPED (R16, R19). -/
theorem SheetInv.suspend {s : State} (h : SheetInv s) (tag : Byte) (hi : s.intake ≠ .stopped) :
    SheetInv { s with intake := .suspended, suspended := some tag, resuming := none } := by
  obtain ⟨⟨hf, ha, hk⟩, hserve⟩ := (sheetInv_iff s).1 h
  exact (sheetInv_iff _).2 ⟨⟨hf, ha, fun _ => hk.valid hi, fun hl => absurd (hk.quiet hl).1 hi, fun _ => ⟨rfl, rfl⟩,
    nofun, hk.heir, nofun⟩, hserve⟩

/-- A missed sheet (R19, R20). -/
theorem Kept.missSheet {s : State} (tag : Byte) (hi : s.intake ≠ .stopped) : Kept s (s.missSheet tag) := by
  unfold State.missSheet
  refine .after (.countMissed _) (.trans (.after (.raise _ .missed) (.aside rfl id)) (SheetsOnly.kept rfl fun h => ?_))
  exact h.suspend tag (by simpa using hi)

/-- The entry that a tag finds, and the table split at it. -/
theorem State.entryOf_some {s : State} {tag : Byte} {e : Entry} (h : s.entryOf tag = some e) :
    e.tag = tag ∧ ∃ older younger, s.table = older ++ e :: younger := by
  obtain ⟨he, older, younger, hl, -⟩ := find_split_iff h
  exact ⟨by simpa using he, older, younger, hl⟩

theorem State.entryOf_none {s : State} {tag : Byte} (h : s.entryOf tag = none) : ∀ x ∈ s.table, x.tag ≠ tag := by
  simpa [State.entryOf] using h

theorem Kept.route (s : State) (tag : Byte) (k : Fin 4) (m : LaneMessage) : Kept s (s.route tag k m) := by
  unfold State.route
  split
  next e he =>
    split
    next hs =>
      obtain ⟨-, older, younger, hl⟩ := State.entryOf_some he
      exact (SheetsOnly.deliver s e k m).kept fun h => h.deliver hl hs k m
    next => exact .countStray s
  next hn =>
    split
    · exact .countStray s
    next hi =>
      split
      · exact .refl s
      · split
        next hlen =>
          exact (SheetsOnly.openEntry s tag k m).kept fun h => h.openEntry hi hlen (State.entryOf_none hn) k m
        next => exact .missSheet tag hi

theorem Kept.message (s : State) (tag : Byte) (k : Fin 4) (m : LaneMessage) : Kept s (s.message tag k m) :=
  .after (.announce _ _) (.route s tag k m)

end Sys2Proof.Machine

namespace Sys2Proof.Machine

/-! ## Expiry, grading, START and STOP (R15, R17, R18, R32) -/

theorem LaneState.final_timeOut (l : Lane) : (l.timeOut).state.final = true := by
  unfold Lane.timeOut
  split
  · rfl
  · rfl
  next h => rw [h]; rfl
  next h => rw [h]; rfl

theorem Lane.timeOut_defects (l : Lane) : l.timeOut.defects = l.defects := by
  unfold Lane.timeOut
  split <;> rfl

theorem Kept.expireWindow {s : State} {tag : Byte} {e : Entry} (he : s.entryOf tag = some e)
    (hs : e.isScanning = true) : Kept s (s.expireWindow e) := by
  obtain ⟨-, older, younger, hl⟩ := State.entryOf_some he
  refine (SheetsOnly.becomeReady s _).kept fun h => ?_
  obtain ⟨-, hcount, -, hlanes⟩ := h.untaken.fits.sound e (by simp [hl])
  refine h.untaken.becomeReady (e' := { e with lanes := _ }) hl hs rfl ?_ hcount fun k => ?_
  · simp [Entry.allFinal_iff, LaneState.final_timeOut]
  · simpa [Lane.timeOut_defects] using hlanes k

/-- An entry that is in GRADING or GRADED stays among the sheets as the invariant asks, whatever its state after (R32,
R80): the engine's next take mends what it has to. -/
theorem Untaken.setEntry {s : State} (h : Untaken s) {older younger : List Entry} {e e' : Entry}
    (hs : s.table = older ++ e :: younger) (he : e.isScanning = false) (htag : e'.tag = e.tag)
    (hnp : e.isPlaced = false) (hplace : e'.isPlaced → ∀ x ∈ older, x.isPlaced)
    (hstate : (∀ left, e'.state ≠ .scanning left) ∧ e'.state ≠ .ready ∧ e'.state ≠ .grading) (hsound : e'.sound) :
    Untaken (s.setEntry e') := by
  have hfits := h.fits
  have hintake := h.intake
  rw [hs] at hfits hintake
  rw [s.setEntry_split hs htag hfits.others]
  refine h.setTable ?_ (hintake.table (settledTable_replace hstate) fun tag => scanningTag_replace fun hsc => ?_)
  · exact hfits.replace htag (by simp [hnp]) (fun hp => .inr (hplace hp)) (fun hg => absurd hg hstate.2.2) hsound
  · simp [he] at hsc

theorem Untaken.laneOutcomes {s : State} (h : Untaken s) (e : Entry) : Untaken (s.laneOutcomes e) := by
  unfold State.laneOutcomes
  generalize fourLanes = l
  induction l generalizing s with
  | nil => exact h
  | cons k l ih =>
    refine ih (show Untaken (s.laneOutcome k (e.lanes.get k).state) from ?_)
    rcases s.laneOutcome_cases k (e.lanes.get k).state with ⟨-, hk⟩ | ⟨-, hk⟩ | ⟨-, hk⟩ <;> rw [hk]
    · exact h
    · exact h.congr rfl rfl rfl rfl rfl rfl rfl rfl rfl
    · have counted : Untaken (s.countFailure k) := by
        unfold State.countFailure
        apply h.congr <;> simp
      split
      · unfold State.takeDown
        apply counted.congr <;> simp
      · exact counted

/-- Completion of grading (R32): the engine is free in between, and its next take mends the table. -/
theorem Kept.complete {s : State} {e : Entry} (he : s.table.find? (fun e => e.state = .grading) = some e) :
    Kept s (s.complete e) := by
  obtain ⟨hg, older, younger, hl, -⟩ := find_split_iff he
  have hg : e.state = .grading := by simpa using hg
  refine ⟨?_, fun h => ?_⟩
  · exact (((SheetsOnly.setEntry s _).others.trans (Kept.laneOutcomes _ _).others).trans (Kept.raiseIf _ _ _).others).trans
      (SheetsOnly.engineTake _).others
  · obtain ⟨hsc, hcount, -, hlanes⟩ := h.untaken.fits.sound e (by simp [hl])
    have hfinal : e.allFinal = true := by
      simpa [Entry.isScanning, hg] using hsc
    unfold State.complete
    dsimp only
    generalize recordOf s.ram e.sheet (measure s.ram e.lanes) = result
    have graded : Untaken (s.setEntry { e with state := .graded result }) := by
      refine h.untaken.setEntry hl (by simp [Entry.isScanning, hg]) rfl (by simp [Entry.isPlaced, hg])
        (by simp [Entry.isPlaced]) (by simp) ?_
      have final : Entry.allFinal { e with state := .graded result } = true := hfinal
      exact ⟨by simp [Entry.isScanning, final], hcount, by simp [Entry.isPlaced], hlanes⟩
    refine Untaken.engineTake ?_
    apply (graded.laneOutcomes { e with state := .graded result }).congr <;> simp

theorem Kept.start {s : State} (hp : s.porstLow = false) : Kept s s.start.1 := by
  unfold State.start
  split
  · exact .refl s
  next hbusy =>
    split
    · exact .refl s
    next hv =>
      split
      · refine SheetsOnly.kept rfl fun h => ?_
        obtain ⟨⟨hf, ha, -⟩, hserve⟩ := (sheetInv_iff s).1 h
        have hop : s.op ≠ .loading := fun hl => hbusy (by simp [State.settingsBusy, hl])
        refine (sheetInv_iff _).2 ⟨⟨hf, ha, fun _ => by simpa using hv, fun hl => ?_, nofun, nofun, nofun, nofun⟩, hserve⟩
        rcases hl with hl | hl
        · exact absurd hl hop
        · exact absurd (hp.symm.trans hl) (by simp)
      · exact .refl s

theorem Kept.stop (s : State) :
    Kept s { s with intake := .stopped, suspended := none, resuming := none, retired := none } := by
  refine SheetsOnly.kept rfl fun h => ?_
  obtain ⟨⟨hf, ha, hk⟩, hserve⟩ := (sheetInv_iff s).1 h
  exact (sheetInv_iff _).2 ⟨⟨hf, ha, fun hn => absurd rfl hn, fun hl => ⟨rfl, (hk.quiet hl).2⟩, nofun,
    nofun, nofun, fun _ => ⟨rfl, rfl⟩⟩, hserve⟩

/-! ## The stacker's commands (R78 to R89) -/

/-- The oldest unplaced entry stands behind PLACED ones (R7). -/
theorem State.oldestUnplaced_some {s : State} {e : Entry} (h : s.oldestUnplaced = some e) :
    e.isPlaced = false ∧ ∃ older younger, s.table = older ++ e :: younger ∧ ∀ x ∈ older, x.isPlaced = true := by
  obtain ⟨he, older, younger, hl, ho⟩ := find_split_iff h
  exact ⟨by simpa using he, older, younger, hl, fun x hx => by simpa using ho x hx⟩

theorem Kept.gate (s : State) (e : Entry) : Kept s (s.gate e) :=
  SheetsOnly.kept (.after (.removeEntry _ _) rfl) fun h => (h.untaken.carryUnscanned e).removeEntry e

theorem Kept.place {s : State} {e : Entry} {r : SheetRecord} (he : s.oldestUnplaced = some e)
    (hg : e.state = .graded r) (b : Fin 8) : Kept s (s.place e r b) := by
  refine .after (.aside rfl id) (SheetsOnly.kept (.after (.setEntry _ _) rfl) fun h => ?_)
  obtain ⟨hnp, older, younger, hl, ho⟩ := State.oldestUnplaced_some he
  obtain ⟨hu, hserve⟩ := (sheetInv_iff s).1 h
  obtain ⟨hsc, -, -, hlanes⟩ := hu.fits.sound e (by simp [hl])
  have hfinal : e.allFinal = true := by simpa [Entry.isScanning, hg] using hsc
  generalize r.placeIn (s.bins.get b).cls = r'
  have hothers := hu.fits
  rw [hl] at hothers
  have placed : Untaken ((s.carryUnscanned e).setEntry { e with state := .placed r' b, unscanned := 0 }) := by
    refine (hu.carryUnscanned e).setEntry hl (by simp [Entry.isScanning, hg]) rfl hnp (fun _ => ho) (by simp) ?_
    have final : Entry.allFinal { e with state := .placed r' b, unscanned := 0 } = true := hfinal
    exact ⟨by simp [Entry.isScanning, final], Nat.zero_le _, fun _ => rfl, hlanes⟩
  refine (sheetInv_iff _).2 ⟨placed, ?_⟩
  rw [State.setEntry_split (s := s.carryUnscanned e) (e' := { e with state := .placed r' b, unscanned := 0 }) hl rfl hothers.others]
  rw [hl] at hserve
  exact hserve.replace (by simp) (by simp [hg])

theorem Kept.whereNext (s : State) : Kept s s.whereNext.1 := by
  have graded (e : Entry) (r : SheetRecord) (he : s.oldestUnplaced = some e) (hg : e.state = .graded r) :
      Kept s (s.whereGraded e r).1 := by
    unfold State.whereGraded
    split
    · exact .gate s e
    · split
      · exact .place he hg _
      · exact .gate s e
  unfold State.whereNext
  split
  · refine SheetsOnly.kept rfl fun h => ?_
    obtain ⟨⟨hf, ha, hk⟩, hserve⟩ := (sheetInv_iff s).1 h
    exact (sheetInv_iff _).2 ⟨⟨hf, (Nat.sub_le _ _).trans ha, hk.1, hk.2, hk.3, hk.4, hk.5, hk.6⟩, hserve⟩
  · split
    · exact .refl s
    next e he =>
      split
      next r hg => exact graded e r he hg
      all_goals exact .refl s

theorem Kept.removeEntry (s : State) (e : Entry) : Kept s (s.removeEntry e) :=
  (SheetsOnly.removeEntry s e).kept fun h => h.untaken.removeEntry e

theorem Kept.carryUnscanned (s : State) (e : Entry) : Kept s (s.carryUnscanned e) :=
  SheetsOnly.kept rfl fun h => (sheetInv_iff _).2 ⟨h.untaken.carryUnscanned e, ((sheetInv_iff s).1 h).2⟩

theorem Kept.outOfOrder (s : State) : Kept s s.outOfOrder.1 := .faultOccurs s rfl

theorem Kept.dropped (s : State) (sheet : Word) : Kept s (s.dropped sheet).1 := by
  unfold State.dropped
  split
  · exact .outOfOrder s
  · split
    · split
      · exact .after (.announce _ _) (.after (.growth _) (.after (.removeEntry _ _) (.aside rfl id)))
      · exact .outOfOrder s
    all_goals exact .outOfOrder s

/-- A retired tag that waits for no entry yet asks nothing of the table (R16). -/
theorem Kept.retire (s : State) (tag : Byte) : Kept s { s with retired := some { tag := tag, heir := none } } := by
  refine SheetsOnly.kept rfl fun h => ?_
  obtain ⟨⟨hf, ha, hk⟩, hserve⟩ := (sheetInv_iff s).1 h
  exact (sheetInv_iff _).2 ⟨⟨hf, ha, hk.1, hk.2, hk.3, hk.4, nofun, hk.6⟩, hserve⟩

theorem Kept.divert (s : State) (sheet : Word) : Kept s (s.divert sheet).1 := by
  have unplaced (e : Entry) : Kept s (s.divertUnplaced e) := by
    have removed : Kept s ((s.carryUnscanned e).removeEntry e) := .after (.removeEntry _ _) (.carryUnscanned s e)
    unfold State.divertUnplaced
    dsimp only
    split
    · exact removed.trans (.retire _ _)
    · exact removed
  have other : Kept s (s.divertOther sheet).1 := by
    unfold State.divertOther
    split
    · split
      · exact .after (.announce _ _) (unplaced _)
      · exact .outOfOrder s
    · exact .outOfOrder s
  unfold State.divert
  split
  · exact other
  · split
    · split
      · exact .after (.announce _ _) (.after (.removeEntry _ _) (.after (.carryUnscanned _ _) (.aside rfl id)))
      · exact other
    all_goals exact other

/-! ## Resets (R197, R198) -/

theorem EngineServes.nil : EngineServes [] := fun ⟨_, hx, _⟩ => by simp at hx

theorem TableFits.nil : TableFits [] := ⟨by simp, .nil, .nil, .nil, by simp⟩

/-- An empty table under a STOPPED intake that holds no tags. -/
theorem SheetInv.cleared {s : State} (ht : s.table = []) (ha : s.ahead = 0) (hi : s.intake = .stopped)
    (h1 : s.suspended = none) (h2 : s.resuming = none) (h3 : s.retired = none) : SheetInv s := by
  refine (sheetInv_iff s).2 ⟨⟨?_, ?_, ⟨fun hn => absurd hi hn, fun _ => ⟨hi, ?_⟩, fun hs => ?_, fun t hr => ?_,
    fun t hr => ?_, fun _ => ⟨h1, h2⟩⟩⟩, ?_⟩
  · rw [ht]; exact .nil
  · omega
  · rw [ht]; simp [settledTable]
  · rw [hi] at hs; cases hs
  · rw [h2] at hr; cases hr
  · rw [h3] at hr; cases hr
  · rw [ht]; exact .nil

theorem Kept.lineReset (s : State) : Kept s s.lineReset := by
  refine ⟨⟨id, fun h => ?_, fun h k => ?_, id, fun _ p => ?_⟩, fun _ => .cleared rfl rfl rfl rfl rfl rfl⟩
  · obtain ⟨hr, hd, hv, -⟩ := (faultInv_iff s).1 h
    refine (faultInv_iff _).2 ⟨hr, ?_, hv, fun k => by simp [State.lineReset]⟩
    rw [State.lineReset_faults, hd, Bool.eq_iff_iff, anyDown_iff, anyDown_iff]
    simp [State.lineReset]
  · simp only [State.lineReset, Oct.get_of]
    exact ⟨(h k).1, fun hl => by simp at hl⟩
  · simp only [State.lineReset, State.port, PerPort.get_of, PortState.lineReset]
    refine ⟨?_, by simp⟩
    cases p <;> decide

/-- At the fall of PORST_N every block takes its power-on values (R197). -/
theorem Kept.powerOn (s : State) : Kept s s.powerOn := by
  refine ⟨⟨fun _ => Settings.defaults_fits, fun _ => ?_, fun _ k => ?_, fun _ => ⟨rfl, fun _ => rfl⟩, fun _ p => ?_⟩,
    fun _ => .cleared rfl rfl rfl rfl rfl rfl⟩
  · exact (faultInv_iff _).2 ⟨⟨rfl, fun k => by simp [State.powerOn, State.reset], nofun⟩, rfl, fun _ => rfl,
      fun k => by simp [State.powerOn, State.reset]⟩
  · simp only [State.powerOn, State.reset, Settings.defaults, Oct.get_of, Line.reset, LineFunction.isInput]
    exact ⟨rfl, fun h => by cases h⟩
  · simp [State.powerOn, State.port, PortState.reset]

/-- At the rise of PORST_N the load begins, on a part whose intake is quiet (R192, R197). -/
theorem Kept.powerUp {s : State} (hp : s.porstLow = true) : Kept s s.powerUp := by
  have begun : Kept s { s with porstLow := false, op := .loading, bus := .reading 0 [] } := by
    refine ⟨⟨id, id, id, fun _ => ⟨rfl, fun h => by cases h⟩, id⟩, fun h => ?_⟩
    obtain ⟨⟨hf, ha, hk⟩, hserve⟩ := (sheetInv_iff s).1 h
    exact (sheetInv_iff _).2 ⟨⟨hf, ha, hk.1, fun _ => hk.quiet (.inr hp), hk.3, hk.4, hk.5, hk.6⟩, hserve⟩
  unfold State.powerUp
  dsimp only
  split
  · exact begun.trans (.lineReset _)
  · exact begun

/-! ## Inputs and the millisecond -/

@[simp] theorem Entry.tick_tag (e : Entry) : e.tick.tag = e.tag := by unfold Entry.tick; split <;> rfl

@[simp] theorem Entry.tick_lanes (e : Entry) : e.tick.lanes = e.lanes := by unfold Entry.tick; split <;> rfl

@[simp] theorem Entry.tick_unscanned (e : Entry) : e.tick.unscanned = e.unscanned := by unfold Entry.tick; split <;> rfl

/-- A millisecond counts a scan window down, and moves no entry to another state. -/
theorem Entry.tick_cases (e : Entry) :
    (∃ n, e.state = .scanning n ∧ e.tick = { e with state := .scanning (n - 1) }) ∨
      (e.isScanning = false ∧ e.tick = e) := by
  unfold Entry.tick
  split
  next n h => exact .inl ⟨n, h, rfl⟩
  all_goals next h => exact .inr ⟨by simp [Entry.isScanning, h], rfl⟩

@[simp] theorem Entry.tick_isScanning (e : Entry) : e.tick.isScanning = e.isScanning := by
  rcases e.tick_cases with ⟨n, h, ht⟩ | ⟨-, ht⟩ <;> rw [ht]
  simp [Entry.isScanning, h]

@[simp] theorem Entry.tick_isPlaced (e : Entry) : e.tick.isPlaced = e.isPlaced := by
  rcases e.tick_cases with ⟨n, h, ht⟩ | ⟨-, ht⟩ <;> rw [ht]
  simp [Entry.isPlaced, h]

theorem Entry.tick_state_iff (e : Entry) {st : EntryState} (hst : ∀ n, st ≠ .scanning n) :
    e.tick.state = st ↔ e.state = st := by
  rcases e.tick_cases with ⟨n, h, ht⟩ | ⟨-, ht⟩ <;> rw [ht]
  rw [h]
  exact ⟨fun he => absurd he.symm (hst _), fun he => absurd he.symm (hst _)⟩

theorem Entry.tick_sound {e : Entry} (h : e.sound) : e.tick.sound := by
  simpa [Entry.sound, Entry.allFinal, Entry.lanesFit] using h

theorem SheetInv.tick {s : State} (h : SheetInv s) : SheetInv { s with table := s.table.map Entry.tick } := by
  obtain ⟨hu, hserve⟩ := (sheetInv_iff s).1 h
  have grading (e : Entry) := e.tick_state_iff (st := .grading) (by simp)
  have ready (e : Entry) := e.tick_state_iff (st := .ready) (by simp)
  refine (sheetInv_iff _).2 ⟨hu.setTable ?_ (hu.intake.table ?_ ?_), ?_⟩
  · exact hu.fits.map Entry.tick_tag Entry.tick_isPlaced grading fun _ hx => Entry.tick_sound hx
  · intro hq x hx
    obtain ⟨y, hy, rfl⟩ := List.mem_map.1 hx
    obtain ⟨h1, h2, h3⟩ := hq y hy
    have still : y.tick = y := by
      rcases y.tick_cases with ⟨n, hn, -⟩ | ⟨-, ht⟩
      · exact absurd hn (h1 n)
      · exact ht
    rw [still]
    exact ⟨h1, h2, h3⟩
  · rintro tag ⟨x, hx, ht, hs⟩
    exact ⟨x.tick, List.mem_map_of_mem hx, by simpa using ht, by simpa using hs⟩
  · simpa [EngineServes, grading, ready] using hserve

theorem Line.tick_fits {l : Line} {f : LineFunction} (h : l.fits f) (active : Bool) : (l.tick active).fits f := by
  unfold Line.tick
  split
  · exact h
  · exact h

theorem Bus.tick_fits {b : Bus} {op : Operation} (h : b.fits op = true) (hn : b.tick.waitOver = false) :
    b.tick.fits op = true := by
  cases b with
  | waiting index waited =>
    have hn : ¬ 20 ≤ waited + 1 := by simpa [Bus.tick, Bus.waitOver, Config.ackWaitMs] using hn
    simp only [Bus.tick, Bus.fits, Bool.and_eq_true, decide_eq_true_eq] at h ⊢
    exact ⟨h.1, by omega⟩
  | idle => exact h
  | reading sent bytes => exact h
  | writing index sent => exact h

theorem Kept.passMs (s : State) : Kept s s.passMs := by
  unfold State.passMs
  split
  · exact .refl s
  · refine .after (.aside rfl id) ⟨⟨id, id, fun h k => ?_, fun h => ⟨?_, fun hp => ?_⟩, fun h p => ?_⟩, fun h => ?_⟩
    · simp only [State.advance, Oct.get_of]
      exact Line.tick_fits (h k) _
    · simp only [State.advance]
      split
      · rfl
      next hn => exact Bus.tick_fits h.1 (by simpa using hn)
    · have idle : s.bus = .idle := h.2 hp
      simp [State.advance, idle, Bus.tick]
    · simpa [State.advance, State.port] using h p
    · exact h.tick

theorem Kept.riseSelect (s : State) (p : Port) : Kept s (s.riseSelect p) := by
  have closed : Kept s (s.setPort p { s.port p with window := .idle }) := .setPort s p fun h => h p
  unfold State.riseSelect
  dsimp only
  split
  · split
    · exact .enqueue s _
    · exact closed
  all_goals exact closed

theorem Kept.takeInput (s : State) (i : Input) : Kept s (s.takeInput i) := by
  cases i with
  | scanChar c =>
    unfold State.takeInput State.receiveChar
    dsimp only
    split
    · exact .refl s
    · exact .aside rfl id
  | scanIdle =>
    unfold State.takeInput State.endMessage
    dsimp only
    split
    · exact .refl s
    · exact .after (.enqueue _ _) (.aside rfl id)
  | selectFall p => exact .enqueue s _
  | clockRise p bit => exact .setPort s p fun h => h p
  | clockFall p => exact .setPort s p fun h => h p
  | selectRise p => exact .riseSelect s p
  | pin k high => exact .setPin s k high
  | lrstFall periods =>
    unfold State.takeInput
    dsimp only
    split
    · exact .enqueue s _
    · exact .refl s
  | lrstRise => exact .aside rfl id
  | porstFall => exact .enqueue s _
  | porstRise => exact .enqueue s _
  | busAck acked => exact .busAck s acked
  | busData b => exact .busData s b
  | ms => exact .passMs s

end Sys2Proof.Machine

namespace Sys2Proof.Machine

/-! ## The answers fit one FETCH window (R155) -/

@[simp] theorem wordBytes_length (w : Word) : (wordBytes w).length = 2 := rfl

@[simp] theorem bytesOf_length (n : Nat) : (bytesOf n).length = 2 := rfl

@[simp] theorem recordBytes_length (r : Option SheetRecord) : (recordBytes r).length = 15 := by
  cases r with
  | none => rfl
  | some r => rfl

theorem State.statusPayload_fits (s : State) (p : Port) : (Reply.ok (s.statusPayload p)).fits := by
  simp [Reply.fits, Reply.ok, State.statusPayload]

theorem State.faultPayload_fits (s : State) : (Reply.ok s.faultPayload).fits := by
  cases h : s.firstFault <;> simp [Reply.fits, Reply.ok, State.faultPayload, h, faultKinds]

theorem State.readBin_fits (s : State) (bin : BitVec 7) (depth : BitVec 9) : ∀ r ∈ (s.readBin bin depth).2, r.fits := by
  unfold State.readBin
  split
  · split
    · rintro r ⟨⟩; simp [Reply.fits, Reply.ok, Bin.payload]
    · rintro r ⟨⟩; exact Reply.bare_fits _
  · rintro r ⟨⟩; exact Reply.bare_fits _

theorem Entry.summary_length (e : Entry) : e.summary.length = 29 := by
  simp [Entry.summary, fourLanes]

theorem Lane.defectBytes_length (l : Lane) (first : Nat) : (l.defectBytes first).length ≤ 28 := by
  have each (ds : List Defect) :
      (ds.flatMap fun d => byteOf (d.zone.val * 16 + d.type.code) :: bytesOf d.size).length = 3 * ds.length := by
    induction ds with
    | nil => rfl
    | cons d ds ih => rw [List.flatMap_cons, List.length_append, ih, List.length_cons, List.length_cons, bytesOf_length]; omega
  have nine : ((l.defects.drop first).take 9).length ≤ 9 := List.length_take_le _ _
  simp only [Lane.defectBytes, List.length_cons, each]
  omega

theorem sampleBytes_length (x : Option Sample) : (sampleBytes x).length = 5 := by
  cases x with
  | none => rfl
  | some x => rfl

theorem Lane.sampleHalf_length (l : Lane) (upper : Bool) : (l.sampleHalf upper).length = 21 := by
  cases upper <;> simp [Lane.sampleHalf, sampleBytes_length]

theorem State.readSheet_fits (s : State) (sheet : Word) (part selector : Byte) : (s.readSheet sheet part selector).fits := by
  unfold State.readSheet
  split
  · exact Reply.bare_fits _
  next e _ =>
    dsimp only
    split
    · simp [Reply.fits, Reply.ok, Entry.summary_length]
    · exact (Lane.defectBytes_length _ _).trans (by decide)
    · simp [Reply.fits, Reply.ok, Lane.sampleHalf_length]
    · exact Reply.bare_fits _

theorem padded_length (n : Nat) (bytes : List Byte) (h : bytes.length ≤ n) : (padded n bytes).length = n := by
  simp only [padded, List.length_append, List.length_replicate]
  omega

/-- The recipes' sizes bound the payload of ORDER_STATUS (R99, R115). -/
theorem State.orderStatus_fits {s : State} (h : OrderInv s) (number : Word) : (s.orderStatus number).fits := by
  obtain ⟨-, -, -, -, -, hfits, -⟩ := h
  unfold State.orderStatus
  split
  · simp [Reply.fits, Reply.ok, Order.payload]
  next a _ ha =>
    have hsize : a.plies.length ≤ 15 := (hfits a (List.mem_of_find?_eq_some ha)).1.2.2
    simp [Reply.fits, Reply.ok, Active.payload, padded_length, hsize]
  · simp [Reply.fits, Reply.ok]
  · exact Reply.bare_fits _

theorem State.takeOrder_fits (s : State) (number : Word) (cls count : Byte) (plies : List Byte) :
    ∀ r ∈ (s.takeOrder number cls count plies).2, r.fits := by
  have payload (u : State) : (u.orderPayload number).length = 4 := by
    unfold State.orderPayload
    split <;> rfl
  unfold State.takeOrder
  split
  · rintro r ⟨⟩; exact Reply.bare_fits _
  · split
    · rintro r ⟨⟩; exact Reply.bare_fits _
    · split
      · rintro r ⟨⟩; exact Reply.bare_fits _
      · rintro r ⟨⟩; simp [Reply.fits, Reply.ok, payload]

theorem State.cancel_fits (s : State) (number : Word) : ∀ r ∈ (s.cancel number).2, r.fits := by
  unfold State.cancel
  split
  · rintro r ⟨⟩; simp [Reply.fits, Reply.ok]
  · split
    · unfold State.cancelActive
      split <;> rintro r ⟨⟩ <;> simp [Reply.fits, Reply.ok, Reply.bare]
    · rintro r ⟨⟩; exact Reply.bare_fits _

theorem State.nextPly_fits (s : State) (number : Word) : ∀ r ∈ (s.nextPly number).2, r.fits := by
  have called (a : Active) : ∀ r ∈ (s.callNext a).2, r.fits := by
    unfold State.callNext
    split
    · rintro r ⟨⟩; exact Reply.bare_fits _
    · split
      · rintro r ⟨⟩; simp [Reply.fits]
      · split <;> rintro r ⟨⟩ <;> simp [Reply.fits, Reply.ok, State.callPayload]
  unfold State.nextPly
  split
  · rintro r ⟨⟩; exact Reply.bare_fits _
  next a _ =>
    split
    · rintro r ⟨⟩; exact Reply.bare_fits _
    all_goals exact called a

theorem State.taken_fits (s : State) (number : Word) : ∀ r ∈ (s.taken number).2, r.fits := by
  unfold State.taken
  split
  · rintro r ⟨⟩; exact Reply.bare_fits _
  · unfold State.takeActive
    split
    · unfold State.takeCalled
      split <;> rintro r ⟨⟩ <;> simp [Reply.fits, Reply.ok]
    · split <;> rintro r ⟨⟩ <;> simp [Reply.fits, Reply.bare]

theorem State.uncall_fits (s : State) (number : Word) : ∀ r ∈ (s.uncall number).2, r.fits := by
  unfold State.uncall
  split
  · rintro r ⟨⟩; exact Reply.bare_fits _
  · split
    · rintro r ⟨⟩; exact Reply.bare_fits _
    · unfold State.uncallActive
      split <;> rintro r ⟨⟩ <;> simp [Reply.fits, Reply.ok]

theorem State.dropped_fits (s : State) (sheet : Word) : ∀ r ∈ (s.dropped sheet).2, r.fits := by
  have refused : ∀ r ∈ s.outOfOrder.2, r.fits := by rintro r ⟨⟩; exact Reply.bare_fits _
  unfold State.dropped
  split
  · exact refused
  · split
    · split
      · rintro r ⟨⟩; simp [Reply.fits, Reply.ok]
      · exact refused
    all_goals exact refused

theorem State.divert_fits (s : State) (sheet : Word) : ∀ r ∈ (s.divert sheet).2, r.fits := by
  have refused : ∀ r ∈ s.outOfOrder.2, r.fits := by rintro r ⟨⟩; exact Reply.bare_fits _
  have other : ∀ r ∈ (s.divertOther sheet).2, r.fits := by
    unfold State.divertOther
    split
    · split
      · rintro r ⟨⟩; simp [Reply.fits, Reply.ok]
      · exact refused
    · exact refused
  unfold State.divert
  split
  · exact other
  · split
    · split
      · rintro r ⟨⟩; simp [Reply.fits, Reply.ok]
      · exact other
    all_goals exact other

theorem WhereAnswer.payload_fits (a : WhereAnswer) : (Reply.ok a.payload).fits := by
  cases a <;> simp [Reply.fits, Reply.ok, WhereAnswer.payload]

theorem State.emptied_fits (s : State) (bin : Byte) : ∀ r ∈ (s.emptied bin).2, r.fits := by
  unfold State.emptied
  split
  · rintro r ⟨⟩; exact Reply.bare_fits _
  · split
    · rintro r ⟨⟩; exact Reply.bare_fits _
    · rintro r ⟨⟩; simp [Reply.fits, Reply.ok]

theorem State.setSetting_fits (s : State) (key : Word) (value : BitVec 32) : ∀ r ∈ (s.setSetting key value).2, r.fits := by
  unfold State.setSetting
  split
  · rintro r ⟨⟩; exact Reply.bare_fits _
  · split
    · rintro r ⟨⟩; exact Reply.bare_fits _
    · unfold State.writeSetting
      split
      · rintro r ⟨⟩; exact Reply.bare_fits _
      · split <;> rintro r ⟨⟩ <;> simp [Reply.fits, Reply.bare, settingPayload]

theorem State.getSetting_fits (s : State) (key : Word) : (s.getSetting key).fits := by
  unfold State.getSetting
  split
  · exact Reply.bare_fits _
  · split
    · exact Reply.bare_fits _
    · simp [Reply.fits, Reply.ok, settingPayload]

theorem State.binState_fits (s : State) (bin requested : Byte) : ∀ r ∈ (s.binState bin requested).2, r.fits := by
  unfold State.binState
  split
  · split
    · rintro r ⟨⟩; exact Reply.bare_fits _
    · unfold State.decideBin
      dsimp only
      split
      case h_8 | h_9 => split <;> rintro r ⟨⟩ <;> exact Reply.bare_fits _
      all_goals rintro r ⟨⟩; exact Reply.bare_fits _
  · rintro r ⟨⟩; exact Reply.bare_fits _

theorem State.start_fits (s : State) : ∀ r ∈ s.start.2, r.fits := by
  unfold State.start
  split
  · rintro r ⟨⟩; exact Reply.bare_fits _
  · split
    · rintro r ⟨⟩; exact Reply.bare_fits _
    · split <;> rintro r ⟨⟩ <;> exact Reply.bare_fits _

theorem State.loadSettings_fits (s : State) : ∀ r ∈ s.loadSettings.2, r.fits := by
  unfold State.loadSettings
  split
  · rintro r ⟨⟩; exact Reply.bare_fits _
  · split <;> rintro r ⟨⟩ <;> exact Reply.bare_fits _

theorem State.storeSettings_fits (s : State) : ∀ r ∈ s.storeSettings.2, r.fits := by
  unfold State.storeSettings
  split <;> rintro r ⟨⟩ <;> exact Reply.bare_fits _

theorem State.laneUp_fits (s : State) (lane : Byte) : ∀ r ∈ (s.laneUp lane).2, r.fits := by
  unfold State.laneUp
  split <;> rintro r ⟨⟩ <;> exact Reply.bare_fits _

/-! ## Every command -/

theorem Kept.readEvents (s : State) (p : Port) (clear : Word) : Kept s (s.readEvents p clear).1 := by
  refine .setPort s p fun h => ⟨?_, (h p).2⟩
  dsimp only
  rw [BitVec.and_assoc, BitVec.and_comm (~~~clear), ← BitVec.and_assoc, (h p).1]
  simp

theorem Kept.rejectFrame (s : State) (p : Port) (w : Window) (kind : FrameError) : Kept s (s.rejectFrame p w kind) :=
  .setPort s p fun h => h p

theorem exec_kept {c : Instr} {s t : State} (h : exec c s = .next t) : StepKept s t := by
  unfold exec at h
  cases c with
  | defect lane tag zone type size => exact powered_kept (fun _ => .message s _ _ _) h
  | sample lane tag zone raw thickness temp => exact powered_kept (fun _ => .message s _ _ _) h
  | laneDone lane tag status => exact powered_kept (fun _ => .message s _ _ _) h
  | badMessage =>
    refine powered_kept (fun _ => ?_) h
    exact .after (.raise _ .badMessage) (.aside rfl id)
  | scanWindowExpiry tag =>
    refine powered_kept (fun _ => ?_) h
    split
    next e he =>
      split
      next hs => exact .expireWindow he hs
      next => exact .refl s
    next => exact .refl s
  | gradingComplete =>
    refine powered_kept (fun _ => ?_) h
    split
    next e he => exact .complete he
    next => exact .refl s
  | holdTimerExpiry slot =>
    refine powered_kept (fun _ => ?_) h
    split
    · exact .refl s
    · split
      · exact .refl s
      all_goals split; exacts [.abort s _ _, .refl s]
  | lineEdge line =>
    refine powered_kept (fun _ => Kept.lineChange fun hd => ?_) h
    exact .after (.announce _ _) (.lineEdge hd)
  | selectFall port =>
    cases h
    split
    · exact Kept.step (.setPort s port fun h => h port)
    · exact Kept.step (.setPort s port fun h => h port)
  | frameRejected port kind => exact powered_kept (fun _ => .rejectFrame s _ _ _) h
  | selectTimeout port => exact powered_kept (fun _ => .rejectFrame s _ _ _) h
  | unknownCommand port code tag =>
    exact powered_kept (fun _ => .after (.placeAnswer _ _ _ (Reply.bare_fits _)) (.acceptFrame s port)) h
  | fetch port tag => exact station_kept (fun u _ => .refl u) (fun _ _ r hr => by cases hr) h
  | status port tag => exact station_unchanged_kept (fun u _ => u.statusPayload_fits port) h
  | readEvents port tag clear =>
    exact station_kept (fun u _ => .readEvents u port clear) (fun u _ r hr => by cases hr; exact Nat.le_of_ble_eq_true rfl) h
  | setAttnMask port tag mask =>
    exact station_kept (fun u _ => .setPort u port (x := { u.port port with mask := mask }) fun h => h port)
      (fun u _ r hr => by cases hr; exact Reply.bare_fits .ok) h
  | readBin port tag bin depth =>
    refine station_kept (fun u _ => ?_) (fun u _ => u.readBin_fits bin depth) h
    unfold State.readBin
    split
    · split <;> exact .refl u
    · exact .refl u
  | readSheet port tag sheet part selector =>
    exact station_unchanged_kept (fun u _ => u.readSheet_fits sheet part selector) h
  | portReset port tag =>
    exact station_kept (fun u _ => .setPort u port fun _ => ⟨by simp, fun a ha => by cases ha⟩) (fun _ _ r hr => by cases hr) h
  | start port tag => exact station_kept (fun u hp => .start hp) (fun u _ => u.start_fits) h
  | stop port tag =>
    exact station_kept (fun u _ => .stop u) (fun u _ r hr => by cases hr; exact Reply.bare_fits .ok) h
  | setSetting port tag key value =>
    exact station_kept (fun u _ => .setSetting u key value) (fun u _ => u.setSetting_fits key value) h
  | getSetting port tag key => exact station_unchanged_kept (fun u _ => u.getSetting_fits key) h
  | loadSettings port tag => exact station_kept (fun u hp => .loadSettings hp) (fun u _ => u.loadSettings_fits) h
  | storeSettings port tag => exact station_kept (fun u hp => .storeSettings hp) (fun u _ => u.storeSettings_fits) h
  | binState port tag bin requested =>
    exact station_kept (fun u _ => .binState u bin requested) (fun u _ => u.binState_fits bin requested) h
  | laneUp port tag lane =>
    refine station_kept (fun u _ => ?_) (fun u _ => u.laneUp_fits lane) h
    unfold State.laneUp
    split
    · exact .returnLane u _
    · exact .refl u
  | readFaults port tag clear =>
    exact station_kept (fun u _ => .clearFaults u clear) (fun u _ r hr => by cases hr; exact u.faultPayload_fits) h
  | readLines port tag clear =>
    exact station_kept (fun u _ => .clearLatches u clear)
      (fun u _ r hr => by cases hr; simp [Reply.fits, Reply.ok, State.linePayload]) h
  | resetLine port tag =>
    exact station_kept (fun u _ => .lineReset u) (fun u _ r hr => by cases hr; exact Reply.bare_fits .ok) h
  | whereTo port tag =>
    exact station_kept (fun u _ => .after (.announce _ _) (.whereNext u))
      (fun u _ r hr => by cases hr; exact WhereAnswer.payload_fits _) h
  | dropped port tag sheet => exact station_kept (fun u _ => .dropped u sheet) (fun u _ => u.dropped_fits sheet) h
  | divert port tag sheet => exact station_kept (fun u _ => .divert u sheet) (fun u _ => u.divert_fits sheet) h
  | emptied port tag bin => exact station_kept (fun u _ => .emptied u bin) (fun u _ => u.emptied_fits bin) h
  | order port tag number cls count plies =>
    exact station_kept (fun u _ => .takeOrder u number cls count plies)
      (fun u _ => u.takeOrder_fits number cls count plies) h
  | cancel port tag number => exact station_kept (fun u _ => .cancel u number) (fun u _ => u.cancel_fits number) h
  | nextPly port tag number => exact station_kept (fun u _ => .nextPly u number) (fun u _ => u.nextPly_fits number) h
  | taken port tag number => exact station_kept (fun u _ => .taken u number) (fun u _ => u.taken_fits number) h
  | uncall port tag number => exact station_kept (fun u _ => .uncall u number) (fun u _ => u.uncall_fits number) h
  | orderStatus port tag number => exact station_unchanged_kept (fun u ho => State.orderStatus_fits ho number) h
  | lineReset stays =>
    cases h
    split
    · exact Kept.step (.aside rfl id)
    · exact Kept.step (.trans (.lineReset s) (.aside rfl id))
  | powerOnReset =>
    cases h
    exact (Kept.powerOn s).step
  | powerOnLoad =>
    cases h
    split
    next hp => exact (Kept.powerUp hp).step
    next => exact (Kept.refl s).step
  | loadEnd read =>
    refine powered_kept (fun _ => ?_) h
    split
    next hop => exact .endLoad read hop
    next => exact .refl s
  | storeEnd result =>
    refine powered_kept (fun _ => ?_) h
    split
    · exact .endStore s result
    · exact .refl s
  | debouncedLevelInactive line => exact powered_kept (fun _ => .lineChange fun hd => .settleInactive hd) h

/-- A step runs a command on the state with the queue's rest, or takes an input with the rest of the inputs; the
invariants look at neither list. -/
theorem step_kept {s t : State} (h : step s = .next t) : StepKept s t := by
  unfold step at h
  split at h
  next c rest _ =>
    have run := exec_kept h
    exact ⟨run.sheets, run.settings, run.faults, run.lines, run.bus, run.ports⟩
  next =>
    cases h
    unfold State.idleStep
    split
    next i rest _ => exact Kept.step (.after (.takeInput _ i) (.aside rfl id))
    next => exact (Kept.refl s).step

/-- Settles O56: the chain of a step's operations keeps both invariants. -/
theorem stepKeepsTheSheetTableAndIntake : Obligations.StepKeepsTheSheetTableAndIntake := by
  intro s t htable hintake h
  exact (step_kept h).sheets ⟨htable, hintake⟩

/-- Settles O59: the chain of a step's operations keeps each of these invariants by itself. -/
theorem stepKeepsSettingsFaultsPortsAndLines : Obligations.StepKeepsSettingsFaultsPortsAndLines := by
  intro s t h
  obtain ⟨-, settings, faults, lines, bus, ports⟩ := step_kept h
  exact ⟨settings, faults, lines, ports, bus⟩

end Sys2Proof.Machine

namespace Sys2Proof.Machine

/-! # Scan messages and the sheet table, as whole next states -/

/-! ## Announcements -/

/-- An event that keeps the settings, the bins and the number of entries has nothing to announce (R76, R185). -/
theorem State.announce_of_length {s t : State} (h1 : t.ram = s.ram) (h2 : t.bins = s.bins)
    (h3 : t.table.length = s.table.length) : s.announce t = t := by
  refine State.announce_eq (by rw [h2]) ?_
  simp [State.lineHold, h1, h2, h3]

/-! ## The message of a command -/

theorem exec_defect {s : State} (hp : s.porstLow = false) (lane : Fin 4) (tag : Byte) (zone : Fin 8) (type : DefectType)
    (size : BitVec 10) : exec (.defect lane tag zone type size) s =
      .next (s.announce (s.route tag lane (.defect { zone := zone, type := type, size := max 1 size.toNat }))) := by
  unfold exec execDefect
  exact powered_next hp _

theorem clampTemp_eq (t : Int) : clampTemp t = if t < -20 then -20 else if 120 < t then 120 else t := by
  unfold clampTemp
  split
  · omega
  · split <;> omega

theorem exec_sample {s : State} (hp : s.porstLow = false) (lane : Fin 4) (tag : Byte) (zone : Fin 8) (raw : BitVec 12)
    (thickness : BitVec 13) (temp : Byte) : exec (.sample lane tag zone raw thickness temp) s =
      .next (s.announce (s.route tag lane (.sample zone
        { raw := raw.toNat, thickness := thickness.toNat
          temp := if temp.toInt < -20 then -20 else if 120 < temp.toInt then 120 else temp.toInt }))) := by
  rw [← clampTemp_eq]
  unfold exec execSample
  exact powered_next hp _

theorem exec_laneDone {s : State} (hp : s.porstLow = false) (lane : Fin 4) (tag : Byte) (status : HeadStatus) :
    exec (.laneDone lane tag status) s = .next (s.announce (s.route tag lane (.done status))) := by
  unfold exec execLaneDone
  exact powered_next hp _

/-- A scan command is routed by its tag (R9). -/
theorem ScanMessage.exec_eq {c : Instr} {lane : Fin 4} {tag : Byte} (h : ScanMessage c lane tag) {s : State}
    (hp : s.porstLow = false) : ∃ m, exec c s = .next (s.announce (s.route tag lane m)) := by
  rcases h with ⟨zone, type, size, rfl⟩ | ⟨zone, raw, thickness, temp, rfl⟩ | ⟨status, rfl⟩
  · exact ⟨_, exec_defect hp lane tag zone type size⟩
  · exact ⟨_, exec_sample hp lane tag zone raw thickness temp⟩
  · exact ⟨_, exec_laneDone hp lane tag status⟩

/-! ## Delivery (R9, R11, R14) -/

theorem State.route_split {s : State} {older younger : List Entry} {e : Entry} (hs : s.table = older ++ e :: younger)
    (ht : ∀ x ∈ older ++ younger, x.tag ≠ e.tag) (he : e.isScanning = true) (k : Fin 4) (m : LaneMessage) :
    s.route e.tag k m = s.deliver e k m := by
  simp [State.route, s.entryOf_split hs ht, he]

/-- A message at a lane that is not final is stored, and the entry is READY when that leaves every lane final. -/
theorem State.deliver_open (s : State) {e : Entry} {k : Fin 4} (h : (e.lanes.get k).state.final = false)
    (m : LaneMessage) :
    s.deliver e k m =
      let e' := { e with lanes := e.lanes.set k ((e.lanes.get k).receive m) }
      if e'.allFinal then s.becomeReady e' else s.setEntry e' := by
  unfold State.deliver
  cases hst : (e.lanes.get k).state with
  | waiting | opened => rfl
  | done | missing => rw [hst] at h; cases h

/-- The lanes of an entry after one is replaced are final where that one and the others are. -/
theorem Entry.allFinal_set (e : Entry) (k : Fin 4) (l : Lane) :
    Entry.allFinal { e with lanes := e.lanes.set k l } = true ↔
      l.state.final = true ∧ ∀ j, j ≠ k → (e.lanes.get j).state.final = true := by
  rw [Entry.allFinal_iff]
  dsimp only
  constructor
  · intro h
    exact ⟨by simpa using h k, fun j hj => by simpa [Quad.get_set_ne _ _ hj] using h j⟩
  · rintro ⟨h1, h2⟩ j
    rw [Quad.get_set]
    split
    · exact h1
    next hj => exact h2 j hj

theorem Lane.receive_defect {l : Lane} (h : l.defects.length < 24) (d : Defect) :
    l.receive (.defect d) = { l with state := .opened, defects := l.defects ++ [d] } := if_pos h

theorem Lane.receive_overflow {l : Lane} (h : 24 ≤ l.defects.length) (d : Defect) :
    l.receive (.defect d) = { l with state := .missing .overflow } := if_neg (Nat.not_lt.2 h)

/-- A message that leaves a lane of its entry not final is stored, and changes nothing else. -/
theorem State.message_stored {s : State} {older younger : List Entry} {e : Entry}
    (hs : s.table = older ++ e :: younger) (ht : ∀ x ∈ older ++ younger, x.tag ≠ e.tag) (he : e.isScanning = true)
    {k : Fin 4} (hk : (e.lanes.get k).state.final = false) {m : LaneMessage} {l : Lane}
    (hl : (e.lanes.get k).receive m = l)
    (hn : l.state.final = false ∨ ∃ j, j ≠ k ∧ (e.lanes.get j).state.final = false) :
    s.announce (s.route e.tag k m) = { s with table := older ++ { e with lanes := e.lanes.set k l } :: younger } := by
  have waits : ¬ Entry.allFinal { e with lanes := e.lanes.set k l } = true := by
    rw [Entry.allFinal_set]
    rintro ⟨h1, h2⟩
    rcases hn with h | ⟨j, hj, h⟩
    · simp [h] at h1
    · simp [h2 j hj] at h
  rw [State.route_split hs ht he, s.deliver_open hk, hl]
  dsimp only
  rw [if_neg waits, State.setEntry_split (e' := { e with lanes := e.lanes.set k l }) hs rfl ht]
  exact State.announce_of_length rfl rfl (by simp [hs])

/-- Settles O7, by what a delivery to a lane that is not final does. -/
theorem readingsAreStoredInTheirLane : Obligations.ReadingsAreStoredInTheirLane := by
  intro s older younger e left lane hp hs ht he hk filed
  have scanning : e.isScanning = true := e.isScanning_iff.2 ⟨left, he⟩
  refine ⟨fun hd zone type size => ?_, fun zone raw thickness temp => ?_, fun other ho hf => ⟨fun hd zone type size => ?_,
    ?_, ?_⟩⟩
  · rw [exec_defect hp, State.message_stored hs ht scanning hk (Lane.receive_defect hd _) (.inl rfl)]
  · rw [exec_sample hp, State.message_stored hs ht scanning hk rfl (.inl rfl)]
    rfl
  · rw [exec_defect hp, State.message_stored hs ht scanning hk (Lane.receive_overflow hd _) (.inr ⟨other, ho, hf⟩)]
  · rw [exec_laneDone hp, State.message_stored hs ht scanning hk rfl (.inr ⟨other, ho, hf⟩)]
    rfl
  · rw [exec_laneDone hp, State.message_stored hs ht scanning hk rfl (.inr ⟨other, ho, hf⟩)]
    rfl

/-! ## READY (R14, R16, R28) -/

/-- An entry becomes READY, what was held for it is let go, and it waits where the engine is at work; a free engine takes
it, no other entry being READY. -/
theorem State.becomeReady_split {s : State} {older younger : List Entry} {e e' : Entry}
    (hs : s.table = older ++ e :: younger) (ht : ∀ x ∈ older ++ younger, x.tag ≠ e.tag) (htag : e'.tag = e.tag)
    {busy : Bool} (hb : busy = true ↔ ∃ x ∈ older ++ younger, x.state = .grading)
    (hr : busy = false → ∀ x ∈ older ++ younger, x.state ≠ .ready) :
    s.becomeReady e' = { s with
      table := older ++ { e' with state := if busy then .ready else .grading } :: younger
      suspended := if s.resuming = some e.tag then none else s.suspended
      resuming := if s.resuming = some e.tag then none else s.resuming
      retired := if s.retired.bind Retired.heir = some e.tag then none else s.retired } := by
  unfold State.becomeReady
  rw [State.setEntry_split (e' := { e' with state := .ready }) hs htag ht, State.letGo_eq]
  rw [← htag] at ht ⊢
  cases busy with
  | true =>
    obtain ⟨x, hx, hg⟩ := hb.1 rfl
    refine State.engineTake_none (.inl ((engineBusy_iff _).2 ⟨x, ?_, hg⟩))
    simp only [List.mem_append, List.mem_cons] at hx ⊢
    exact hx.imp id .inr
  | false =>
    have free : ∀ x ∈ older ++ younger, x.state ≠ .grading := fun x hx hg => by simpa using hb.2 ⟨x, hx, hg⟩
    rw [State.engineTake_some (older := older) (younger := younger) (e := { e' with state := .ready }) _ rfl
      (fun x hx => hr rfl x (by simp [hx])) rfl ht]
    · rfl
    rw [Bool.eq_false_iff, ne_eq, engineBusy_iff]
    rintro ⟨x, hx, hg⟩
    simp only [List.mem_append, List.mem_cons] at hx
    rcases hx with hx | rfl | hx
    · exact free x (by simp [hx]) hg
    · cases hg
    · exact free x (by simp [hx]) hg

/-- Settles O8: the stored lane is the last to become final, so the entry becomes READY. -/
theorem lastFinalLaneMakesTheEntryReady : Obligations.LastFinalLaneMakesTheEntryReady := by
  intro s older younger e left lane c l hp hs ht he hk hothers hc busy hb hr
  have scanning : e.isScanning = true := e.isScanning_iff.2 ⟨left, he⟩
  have message : ∃ m, exec c s = .next (s.announce (s.route e.tag lane m)) ∧ (e.lanes.get lane).receive m = l ∧
      l.state.final = true := by
    rcases hc with ⟨rfl, rfl⟩ | ⟨rfl, rfl⟩ | ⟨zone, type, size, rfl, hd, rfl⟩
    · exact ⟨_, exec_laneDone hp lane e.tag .ok, rfl, rfl⟩
    · exact ⟨_, exec_laneDone hp lane e.tag .failed, rfl, rfl⟩
    · exact ⟨_, exec_defect hp lane e.tag zone type size, Lane.receive_overflow hd _, rfl⟩
  obtain ⟨m, hexec, hl, hfinal⟩ := message
  have allFinal := (e.allFinal_set lane l).2 ⟨hfinal, hothers⟩
  rw [hexec, State.route_split hs ht scanning, s.deliver_open hk, hl]
  dsimp only
  rw [if_pos allFinal, State.becomeReady_split (e' := { e with lanes := e.lanes.set lane l }) hs ht rfl hb hr]
  exact congrArg _ (State.announce_of_length rfl rfl (by simp [hs]))

theorem Lane.timeOut_eq (l : Lane) : l.timeOut = if l.state.final then l else { l with state := .missing .timeout } := by
  unfold Lane.timeOut
  split
  next h => simp [h, LaneState.final]
  next h => simp [h, LaneState.final]
  next h => simp [h, LaneState.final]
  next h => simp [h, LaneState.final]

/-- Settles O9. -/
theorem scanWindowExpiryTimesOutTheLanes : Obligations.ScanWindowExpiryTimesOutTheLanes := by
  intro s older younger e left hp hs ht he busy hb hr
  have scanning : e.isScanning = true := e.isScanning_iff.2 ⟨left, he⟩
  refine ⟨Quad.of fun k => (e.lanes.get k).timeOut, fun k => by rw [Quad.get_of, Lane.timeOut_eq], ?_⟩
  have expires : exec (.scanWindowExpiry e.tag) s = .next (s.expireWindow e) := by
    show execScanWindowExpiry e.tag s = _
    rw [execScanWindowExpiry, powered_next hp]
    simp only [s.entryOf_split hs ht, scanning, if_true]
  rw [expires, State.expireWindow, State.becomeReady_split
    (e' := { e with lanes := Quad.of fun k => (e.lanes.get k).timeOut }) hs ht rfl hb hr]

/-! ## Messages with no lane to go to (R9, R11) -/

theorem State.announce_self (s : State) : s.announce s = s := State.announce_eq rfl rfl

/-- Settles O10, by the cases of the routing and of the lane's state. -/
theorem discardedMessagesAreCountedOrNot : Obligations.DiscardedMessagesAreCountedOrNot := by
  intro s c lane tag hp hc
  obtain ⟨m, hexec⟩ := hc.exec_eq hp
  have stray (h : s.route tag lane m = s.countStray) :
      exec c s = .next { s with stray := min 65535 (s.stray + 1) } := by
    rw [hexec, h, State.announce_of_length (by simp) (by simp) (by simp)]
    rfl
  have silent (h : s.route tag lane m = s) : exec c s = .next s := by rw [hexec, h, s.announce_self]
  constructor
  · rintro (⟨e, he, hcase⟩ | ⟨hnone, hstopped⟩)
    · refine stray ?_
      simp only [State.route, he]
      split
      next hs =>
        rcases hcase with h | h | h
        · simp [h] at hs
        · simp [State.deliver, h]
        · simp [State.deliver, h]
      next => rfl
    · exact stray (by simp [State.route, hnone, hstopped])
  · rintro (⟨e, he, hs, hlane⟩ | ⟨hnone, hrunning, hheld⟩)
    · refine silent ?_
      simp only [State.route, he, hs, if_true]
      rcases hlane with h | h <;> simp [State.deliver, h]
    · refine silent ?_
      have held : s.tagHeld tag = true := by
        rcases hheld with h | ⟨r, h, ht⟩ <;> simp [State.tagHeld, h]
        exact .inr ht
      simp [State.route, hnone, hrunning, held]

end Sys2Proof.Machine

namespace Sys2Proof.Machine

/-! ## A new tag (R8, R10, R16) -/

/-- The lanes of an entry after the message that opens it: the lane takes it, unless it is DOWN (R10, R11). -/
def openedLanes (h : Quad LaneHealth) (k : Fin 4) (m : LaneMessage) : Quad Lane :=
  (openingLanes h).set k (if (h.get k).down then Lane.empty (.missing .down) else (Lane.empty .waiting).receive m)

theorem openedLanes_get (h : Quad LaneHealth) (k : Fin 4) (m : LaneMessage) (j : Fin 4) :
    (openedLanes h k m).get j = if (h.get j).down then Lane.empty (.missing .down)
      else if j = k then (Lane.empty .waiting).receive m else Lane.empty .waiting := by
  unfold openedLanes
  rw [Quad.get_set, openingLanes_get]
  by_cases hj : j = k
  · subst hj; simp
  · simp only [hj, if_false]; split <;> rfl

/-- The entry that a message opens, as the message leaves it before the engine looks at it. -/
def State.openedEntry (s : State) (tag : Byte) (k : Fin 4) (m : LaneMessage) : Entry :=
  { s.newEntry tag with lanes := openedLanes s.health k m }

/-- An opening: the entry takes its message, and becomes READY where that, or the DOWN lanes, leave every lane final. -/
theorem State.openEntry_eq (s : State) (tag : Byte) (k : Fin 4) (m : LaneMessage) (hnew : ∀ x ∈ s.table, x.tag ≠ tag) :
    s.openEntry tag k m =
      let s1 := { s with table := s.table ++ [s.newEntry tag], sheetCounter := s.sheetCounter + 1 }.noteOpening tag
      if (s.openedEntry tag k m).allFinal then s1.becomeReady (s.openedEntry tag k m)
      else { s1 with table := s.table ++ [s.openedEntry tag k m] } := by
  unfold State.openEntry
  dsimp only
  have table : ({ s with table := s.table ++ [s.newEntry tag], sheetCounter := s.sheetCounter + 1
      }.noteOpening tag).table = s.table ++ [s.newEntry tag] := by rw [State.noteOpening_eq]
  generalize ({ s with table := s.table ++ [s.newEntry tag], sheetCounter := s.sheetCounter + 1
      }.noteOpening tag) = s1 at table
  have lane : (s.newEntry tag).lanes.get k = Lane.empty (if (s.health.get k).down then .missing .down else .waiting) :=
    openingLanes_get s.health k
  by_cases hd : (s.health.get k).down = true
  · have same : s.openedEntry tag k m = s.newEntry tag := by
      have : openedLanes s.health k m = openingLanes s.health := by
        refine Quad.ext_get fun j => ?_
        rw [openedLanes_get, openingLanes_get]
        by_cases hj : j = k
        · subst hj; simp [hd]
        · simp only [hj, if_false]; split <;> rfl
      rw [State.openedEntry, this]
      rfl
    rw [same]
    split
    · rfl
    · rw [hd, if_pos rfl] at lane
      simp only [State.deliver, lane, Lane.empty]
      rw [← table]
  · have stays : ¬ (s.newEntry tag).allFinal = true := by
      rw [Entry.allFinal_iff]
      intro h
      have := h k
      rw [lane, if_neg hd] at this
      cases this
    rw [if_neg hd] at lane
    have stored : { s.newEntry tag with
        lanes := (s.newEntry tag).lanes.set k (((s.newEntry tag).lanes.get k).receive m) } = s.openedEntry tag k m := by
      rw [lane]
      unfold State.openedEntry openedLanes
      rw [if_neg hd]
      rfl
    rw [if_neg stays, s1.deliver_open (by rw [lane]; rfl)]
    dsimp only
    rw [stored, State.setEntry_split (older := s.table) (younger := []) (e' := s.openedEntry tag k m) table rfl
      (by rw [List.append_nil]; exact hnew)]

/-- What is held for entries of the table is not held for a new tag (R16). -/
theorem IntakeFits.not_held {s : State} (h : IntakeFits s s.table) {tag : Byte} (hnew : ∀ x ∈ s.table, x.tag ≠ tag) :
    s.resuming ≠ some tag ∧ ∀ r, s.retired = some r → r.heir ≠ some tag := by
  refine ⟨fun hr => ?_, fun r hr hh => ?_⟩
  · obtain ⟨-, x, hx, ht, -⟩ := h.resuming tag hr
    exact hnew x hx ht
  · obtain ⟨x, hx, ht, -⟩ := h.heir tag (by rw [hr]; exact hh)
    exact hnew x hx ht

/-- The state of an entry that a message opens, as the engine leaves it. -/
def openedState (window : Nat) (final busy : Bool) : EntryState :=
  if final then if busy then .ready else .grading else .scanning window

/-- The state after an opening, before what it changed is announced. -/
def State.opened (s : State) (tag : Byte) (k : Fin 4) (m : LaneMessage) : State :=
  let final := (s.openedEntry tag k m).allFinal
  { s with
    table := s.table ++ [{ s.openedEntry tag k m with state := openedState s.ram.scanWindow final s.engineBusy }]
    sheetCounter := s.sheetCounter + 1
    intake := .running
    suspended := if s.intake = .suspended ∧ final = true then none else s.suspended
    resuming := if s.intake = .suspended then (if final then none else some tag) else s.resuming
    retired := s.retired.bind fun r =>
      if r.heir = none then (if final then none else some { r with heir := some tag }) else some r }

/-- The whole next state of an opening (R8, R10, R14, R16, R28). -/
theorem State.openEntry_opened {s : State} (h : SheetInv s) {tag : Byte} (hi : s.intake ≠ .stopped)
    (hnew : ∀ x ∈ s.table, x.tag ≠ tag) (k : Fin 4) (m : LaneMessage) : s.openEntry tag k m = s.opened tag k m := by
  obtain ⟨⟨hfits, hahead, hintake⟩, hserve⟩ := (sheetInv_iff s).1 h
  obtain ⟨hres, hret⟩ := hintake.not_held hnew
  have running : (if s.intake = .suspended then Intake.running else s.intake) = .running := by
    cases hs : s.intake <;> simp_all
  unfold State.opened
  dsimp only
  rw [s.openEntry_eq tag k m hnew, State.noteOpening_eq]
  dsimp only
  cases hf : (s.openedEntry tag k m).allFinal with
  | false =>
    simp only [Bool.false_eq_true, if_false, running, and_false, openedState]
    congr 1
    cases s.retired with
    | none => rfl
    | some r => simp only [Option.map_some, Option.bind_some]; split <;> rfl
  | true =>
    simp only [if_true, and_true, openedState, running]
    rw [State.becomeReady_split (older := s.table) (younger := []) (e := s.newEntry tag)
      (e' := s.openedEntry tag k m) (busy := s.engineBusy) rfl
      (by rw [List.append_nil]; exact hnew) rfl (by rw [engineBusy_iff, List.append_nil])
      (fun hb x hx hr => ?_)]
    · have noted : (if (if s.intake = .suspended then some tag else s.resuming) = some tag then
          (none : Option Byte) else s.suspended) = if s.intake = .suspended then none else s.suspended := by
        by_cases hs : s.intake = .suspended <;> simp [hs, hres]
      have resumed : (if (if s.intake = .suspended then some tag else s.resuming) = some tag then none
          else if s.intake = .suspended then some tag else s.resuming) =
            if s.intake = .suspended then none else s.resuming := by
        by_cases hs : s.intake = .suspended <;> simp [hs, hres]
      have heirs : (if (s.retired.map fun r => if r.heir = none then { r with heir := some tag } else r).bind
            Retired.heir = some tag then none
          else s.retired.map fun r => if r.heir = none then { r with heir := some tag } else r) =
            s.retired.bind fun r => if r.heir = none then none else some r := by
        cases hr : s.retired with
        | none => rfl
        | some r => by_cases hn : r.heir = none <;> simp [hn, hret r hr]
      simp only [show (s.newEntry tag).tag = tag from rfl, noted, resumed, heirs]
    · rw [List.append_nil] at hx
      have := (engineBusy_iff s).2 (hserve ⟨x, hx, hr⟩)
      simp [hb] at this

/-- The announcement of an event that changed no bin and no port before it (R185). -/
theorem State.announce_hold {s u : State} (hp : u.ports = s.ports) (hb : u.bins = s.bins) :
    FlagsRaised s (s.announce u) (holdFlag s (s.announce u)) ∧ SamePortsButFlags s (s.announce u) := by
  have port (p : Port) : u.port p = s.port p := by rw [State.port, State.port, hp]
  have hold : (s.announce u).lineHold = u.lineHold := lineHold_congr (by simp) (by simp) (by simp)
  have none_full : fullFlags s u = [] := by simp [fullFlags, hb]
  refine ⟨fun p n hn => ?_, fun p => ?_⟩
  · rw [s.announce_raised u p n hn, port, none_full]
    simp [holdFlag, hold]
  · rw [s.announce_same u p, port]

/-- What a lane holds after the message that opened its entry (R3 to R5, R11). -/
def OpeningLane (c : Instr) (lane : Fin 4) (tag : Byte) (l : Lane) : Prop :=
  (∀ zone type size, c = .defect lane tag zone type size → l = { Lane.empty .opened with
    defects := [{ zone := zone, type := type, size := max 1 size.toNat }] }) ∧
  (∀ zone raw thickness temp, c = .sample lane tag zone raw thickness temp → l = { Lane.empty .opened with
    samples := (Lane.empty .opened).samples.set zone (some
      { raw := raw.toNat, thickness := thickness.toNat
        temp := if temp.toInt < -20 then -20 else if 120 < temp.toInt then 120 else temp.toInt }) }) ∧
  (c = .laneDone lane tag .ok → l = Lane.empty .done) ∧
  (c = .laneDone lane tag .failed → l = Lane.empty (.missing .head))

theorem ScanMessage.exec_opening {c : Instr} {lane : Fin 4} {tag : Byte} (h : ScanMessage c lane tag) {s : State}
    (hp : s.porstLow = false) : ∃ m, exec c s = .next (s.announce (s.route tag lane m)) ∧
      OpeningLane c lane tag ((Lane.empty .waiting).receive m) := by
  rcases h with ⟨zone, type, size, rfl⟩ | ⟨zone, raw, thickness, temp, rfl⟩ | ⟨status, rfl⟩
  · refine ⟨_, exec_defect hp lane tag zone type size, fun _ _ _ h => ?_, nofun, nofun, nofun⟩
    cases h; rfl
  · refine ⟨_, exec_sample hp lane tag zone raw thickness temp, nofun, fun _ _ _ _ h => ?_, nofun, nofun⟩
    cases h; rfl
  · refine ⟨_, exec_laneDone hp lane tag status, nofun, nofun, fun h => ?_, fun h => ?_⟩ <;> cases h <;> rfl

/-- A new tag with room in the table, and the intake not STOPPED, opens an entry (R9, cases 5). -/
theorem State.route_new {s : State} {tag : Byte} (hnone : s.entryOf tag = none) (hi : s.intake ≠ .stopped)
    (hsus : s.suspended ≠ some tag) (hret : ∀ r, s.retired = some r → r.tag ≠ tag) (k : Fin 4) (m : LaneMessage) :
    s.route tag k m = if s.table.length < 16 then s.openEntry tag k m else s.missSheet tag := by
  have free : s.tagHeld tag = false := by
    unfold State.tagHeld
    cases hr : s.retired with
    | none => simpa using hsus
    | some r => simpa using ⟨hsus, hret r hr⟩
  unfold State.route
  rw [hnone]
  dsimp only
  rw [if_neg hi, if_neg (by simp [free])]
  rfl

/-- Settles O11: the whole next state of an opening, field by field. -/
theorem newTagOpensAnEntry : Obligations.NewTagOpensAnEntry := by
  intro s c lane tag hp hc ht hk hnone hi hsus hret hlen
  obtain ⟨m, hexec, hopening⟩ := hc.exec_opening hp
  obtain ⟨⟨-, -, hintake⟩, hserve⟩ := (sheetInv_iff s).1 ⟨ht, hk⟩
  obtain ⟨-, hheir⟩ := hintake.not_held (State.entryOf_none hnone)
  rw [State.route_new hnone hi hsus hret, if_pos hlen, State.openEntry_opened ⟨ht, hk⟩ hi (State.entryOf_none hnone)] at hexec
  obtain ⟨hflags, hports⟩ := State.announce_hold (s := s) (u := s.opened tag lane m) rfl rfl
  generalize hfinal : (s.openedEntry tag lane m).allFinal = final
  let e : Entry := { s.openedEntry tag lane m with state := openedState s.ram.scanWindow final s.engineBusy }
  have efinal : e.allFinal = final := hfinal
  have lanes (j : Fin 4) := openedLanes_get s.health lane m j
  refine ⟨_, e, hexec, ?_, rfl, ?_, rfl, rfl, fun k hd => ?_, fun k hne hd => ?_, fun hd => ?_, Entry.allFinal_iff _,
    fun hf => ?_, fun hf hg => ?_, fun hf hg => ?_, fun hr => ?_, fun r hr => ⟨fun hn => ?_, fun hn => ?_⟩, ?_, ?_, ?_,
    hflags, hports, ?_⟩
  · simp [State.opened, hfinal, e]
  · simp [State.opened]
  · exact (lanes k).trans (by rw [if_pos hd])
  · exact (lanes k).trans (by simp [hd, hne])
  · have stored : e.lanes.get lane = (Lane.empty .waiting).receive m := (lanes lane).trans (by simp [hd])
    rw [stored]
    exact hopening
  · simp [e, openedState, efinal.symm.trans hf]
  · simp [e, openedState, efinal.symm.trans hf, (engineBusy_iff s).2 hg]
  · have free : s.engineBusy = false := by
      rw [Bool.eq_false_iff, ne_eq, engineBusy_iff]
      rintro ⟨x, hx, h⟩
      exact hg x hx h
    simp [e, openedState, efinal.symm.trans hf, free]
  · simp [State.opened, hr]
  · simp [State.opened, hr, hn]
  · simp [State.opened, hr, hn, hfinal, efinal]
  · simp [State.opened]
  · simp [State.opened, hfinal, efinal]
  · rw [efinal]
    by_cases hs : s.intake = .suspended <;> cases final <;> simp [State.opened, hfinal, hs]
  · simp [State.opened, SameReceiver, SameOrders, SameFaults, SameSettings, SamePins]

end Sys2Proof.Machine

namespace Sys2Proof.Machine

/-! ## A missed sheet (R19, R20) -/

/-- The count that a missed sheet raises comes to 255, or is found there, exactly from 254 on (R20). -/
theorem satSucc_unscanned (n : Nat) : satSucc Config.unscannedMax n = Config.unscannedMax ↔ 254 ≤ n := by
  simp only [satSucc, Config.unscannedMax]
  omega

/-- The state in which a missed sheet is counted and flagged and has suspended the intake (R16, R19). -/
def State.suspendedBy (s : State) (tag : Byte) : State :=
  { { s with missed := satSucc Config.counterMax s.missed }.raise .missed with
    intake := .suspended, suspended := some tag, resuming := none }

/-- The state in which a missed sheet at a full table has been counted: after the youngest entry, or as pending where
that is PLACED (R20). -/
def State.missCounted (s : State) (tag : Byte) (older : List Entry) (y : Entry) : State :=
  { s.suspendedBy tag with
    ahead := if y.isPlaced then min 255 (s.ahead + 1) else s.ahead
    table := if y.isPlaced then s.table else older ++ [{ y with unscanned := min 255 (y.unscanned + 1) }] }

/-- The count that a missed sheet raises (R20). -/
def State.missBefore (s : State) (y : Entry) : Nat := if y.isPlaced then s.ahead else y.unscanned

/-- A missed sheet: the counting, and SYNC_LOST where the count came to 255 or was found there. -/
theorem State.missSheet_eq {s : State} {older : List Entry} {y : Entry} (hs : s.table = older ++ [y])
    (ht : ∀ x ∈ older ++ [], x.tag ≠ y.tag) (tag : Byte) {lost : Bool} (hl : lost = true ↔ 254 ≤ s.missBefore y) :
    s.missSheet tag = if lost then (s.missCounted tag older y).faultOccurs .syncLost else s.missCounted tag older y := by
  have table : (s.suspendedBy tag).table = older ++ [y] := by simp [State.suspendedBy, hs]
  have ahead : (s.suspendedBy tag).ahead = s.ahead := by simp [State.suspendedBy]
  have counted : s.missSheet tag =
      (s.missCounted tag older y).syncCheck (satSucc Config.unscannedMax (s.missBefore y)) := by
    show (s.suspendedBy tag).countMissed = _
    unfold State.missCounted State.missBefore
    rw [hs]
    generalize s.suspendedBy tag = u at table ahead
    have youngest : u.table.getLast? = some y := by rw [table]; simp
    unfold State.countMissed
    rw [youngest]
    dsimp only
    split
    · rw [State.missAhead, ← ahead, ← table]; rfl
    · rw [State.missAfter, State.setEntry_split (older := older) (younger := []) (e := y)
        (e' := { y with unscanned := satSucc Config.unscannedMax y.unscanned }) table rfl ht, ← ahead]
      rfl
  rw [counted]
  unfold State.syncCheck
  simp only [satSucc_unscanned, ← hl]

/-- The event flags and the fault state of the state in which a missed sheet has been counted. -/
theorem State.missCounted_spec (s : State) (tag : Byte) (older : List Entry) (y : Entry) :
    FlagsRaised s (s.missCounted tag older y) [(.line, 0)] ∧ SamePortsButFlags s (s.missCounted tag older y) ∧
      SameFaults s (s.missCounted tag older y) :=
  ⟨State.raise_raised { s with missed := satSucc Config.counterMax s.missed } .missed,
    State.raise_same { s with missed := satSucc Config.counterMax s.missed } .missed,
    by simp [State.missCounted, State.suspendedBy], by simp [State.missCounted, State.suspendedBy]⟩

/-- The record of a first fault depends on the fault kinds, the record and the sheet counter alone. -/
theorem State.recordFault_congr {s t : State} (hfaults : t.faults = s.faults) (hfirst : t.firstFault = s.firstFault)
    (hcounter : t.sheetCounter = s.sheetCounter) (k : FaultKind) : t.recordFault k = s.recordFault k := by
  simp only [State.recordFault, State.lastSheet, hfaults, hfirst, hcounter]

/-- Settles O12: the counted state, and the occurrence of SYNC_LOST in it. -/
theorem newTagAtAFullTableIsAMissedSheet : Obligations.NewTagAtAFullTableIsAMissedSheet := by
  intro s c lane tag older y hp hc ht hs hlen hnone hi hsus hret
  obtain ⟨m, hexec⟩ := hc.exec_eq hp
  have others : ∀ x ∈ older ++ [], x.tag ≠ y.tag := ht.tags hs
  rw [State.route_new hnone hi hsus hret, if_neg (by omega)] at hexec
  obtain ⟨hflags, hports, hfaults, hfirst⟩ := s.missCounted_spec tag older y
  have missed {lost : Bool} (hl : lost = true ↔ 254 ≤ s.missBefore y) := State.missSheet_eq hs others tag hl
  have either {P : State → Prop} (h1 : P (s.missCounted tag older y))
      (h2 : P ((s.missCounted tag older y).faultOccurs .syncLost)) : P (s.missSheet tag) := by
    rw [missed decide_eq_true_iff]
    split
    · exact h2
    · exact h1
  have length : (s.missCounted tag older y).table.length = s.table.length := by
    unfold State.missCounted
    dsimp only
    split
    · rfl
    · simp [hs]
  have silent : s.announce (s.missSheet tag) = s.missSheet tag := by
    refine either (P := fun t => s.announce t = t) ?_ ?_ <;>
      exact State.announce_of_length (by simp [State.missCounted, State.suspendedBy])
        (by simp [State.missCounted, State.suspendedBy]) (by simpa using length)
  rw [silent] at hexec
  refine ⟨_, hexec, ?_⟩
  have whole : ∀ lost : Bool, (lost = true ↔ 254 ≤ if y.isPlaced then s.ahead else y.unscanned) →
      (lost = true → (s.missSheet tag).faults = (s.faultOccurs .syncLost).faults ∧
        (s.missSheet tag).firstFault = (s.faultOccurs .syncLost).firstFault) ∧
      (lost = false → SameFaults s (s.missSheet tag)) ∧
      FlagsRaised s (s.missSheet tag) ((.line, 0) ::
        if lost && !(s.faults.get .syncLost).pending then [(.line, 6)] else []) := by
    intro lost hl
    rw [missed hl]
    cases lost with
    | false => exact ⟨nofun, fun _ => ⟨hfaults, hfirst⟩, hflags⟩
    | true =>
      refine ⟨fun _ => ⟨?_, ?_⟩, nofun, ?_⟩
      · simp [State.faultOccurs_faults, hfaults]
      · simp only [if_true, State.faultOccurs_firstFault, hfaults, hfirst,
          State.recordFault_congr hfaults hfirst (t := s.missCounted tag older y) (s := s) (by
            simp [State.missCounted, State.suspendedBy])]
      · have both := hflags.trans ((s.missCounted tag older y).faultOccurs_raised .syncLost)
        rw [hfaults] at both
        cases hpend : (s.faults.get .syncLost).pending <;> simpa [hpend] using both
  have ports : SamePortsButFlags s (s.missSheet tag) :=
    either hports (hports.trans ((s.missCounted tag older y).faultOccurs_same .syncLost))
  have kept : ∀ t, t = s.missCounted tag older y ∨ t = (s.missCounted tag older y).faultOccurs .syncLost →
      t.missed = min 65535 (s.missed + 1) ∧ t.intake = .suspended ∧ t.suspended = some tag ∧ t.resuming = none ∧
      t.retired = s.retired ∧ t.sheetCounter = s.sheetCounter ∧
      (y.isPlaced = true → t.table = s.table ∧ t.ahead = min 255 (s.ahead + 1)) ∧
      (y.isPlaced = false → t.ahead = s.ahead ∧
        t.table = older ++ [{ y with unscanned := min 255 (y.unscanned + 1) }]) := by
    rintro t (rfl | rfl) <;> refine ⟨?_, ?_, ?_, ?_, ?_, ?_, fun h => ?_, fun h => ?_⟩ <;>
      simp [State.missCounted, State.suspendedBy, satSucc, Config.counterMax, *]
  obtain ⟨hmissed, hintake, hsuspended, hresuming, hretired, hcounter, placed, unplaced⟩ :=
    kept (s.missSheet tag) (either (P := fun t => t = _ ∨ t = _) (.inl rfl) (.inr rfl))
  refine ⟨hmissed, hintake, hsuspended, hresuming, hretired, hcounter, placed, unplaced,
    whole, ports, either (P := fun t => t.rx = s.rx ∧ t.bad = s.bad ∧ t.stray = s.stray ∧ t.health = s.health ∧
      t.bins = s.bins ∧ SameOrders s t ∧ t.lines = s.lines ∧ SameSettings s t ∧ SamePins s t) ?_ ?_⟩ <;>
    simp [State.missCounted, State.suspendedBy, SameOrders, SameSettings, SamePins]

end Sys2Proof.Machine

namespace Sys2Proof.Machine

/-! ## Scan messages on the wire (R2, R165, Table 7-14) -/

theorem zoneOf_isSome (n : Nat) : (zoneOf n).isSome = true ↔ n < 8 := by
  unfold zoneOf
  split <;> simp [*]

theorem DefectType.ofCode_isSome (n : Nat) : (DefectType.ofCode n).isSome = true ↔ n < 7 := by
  rcases n with _ | _ | _ | _ | _ | _ | _ | n <;> simp [DefectType.ofCode]

theorem HeadStatus.ofCode_isSome (n : Nat) : (HeadStatus.ofCode n).isSome = true ↔ n < 2 := by
  rcases n with _ | _ | n <;> simp [HeadStatus.ofCode]

/-- The fields of a message are known exactly when its type nibble is, and with it the zone, defect type or status. -/
theorem readFields_isSome (m : List Byte) :
    (readFields m).isSome = true ↔
      ((byteAt m 0).toNat / 16 = 1 ∧ (byteAt m 2).toNat / 16 < 8 ∧ (byteAt m 2).toNat % 16 < 7) ∨
      ((byteAt m 0).toNat / 16 = 2 ∧ (byteAt m 2).toNat / 16 < 8) ∨
      ((byteAt m 0).toNat / 16 = 3 ∧ (byteAt m 2).toNat < 2) := by
  rw [← zoneOf_isSome, ← DefectType.ofCode_isSome, ← HeadStatus.ofCode_isSome]
  unfold readFields
  dsimp only
  split
  case h_1 h => cases zoneOf ((byteAt m 2).toNat / 16) <;> cases DefectType.ofCode ((byteAt m 2).toNat % 16) <;> simp [h]
  case h_2 h => cases zoneOf ((byteAt m 2).toNat / 16) <;> simp [h]
  case h_3 h => cases HeadStatus.ofCode (byteAt m 2).toNat <;> simp [h]
  case h_4 h1 h2 h3 => simp [show _ ≠ 1 from h1, show _ ≠ 2 from h2, show _ ≠ 3 from h3]

/-- No well-formed message spells a bad one. -/
theorem readFields_ne_badMessage (m : List Byte) : readFields m ≠ some .badMessage := by
  unfold readFields
  dsimp only
  split
  case h_1 => cases zoneOf ((byteAt m 2).toNat / 16) <;> cases DefectType.ofCode ((byteAt m 2).toNat % 16) <;> simp
  case h_2 => cases zoneOf ((byteAt m 2).toNat / 16) <;> simp
  case h_3 => cases HeadStatus.ofCode (byteAt m 2).toNat <;> simp
  case h_4 => simp

/-- A message is not bad exactly when it is whole and its fields are known. -/
theorem readMessage_ne_badMessage (m : List RxChar) :
    readMessage m ≠ .badMessage ↔ (m.length = 8 ∧ m.all RxChar.framed ∧ byteSum (m.map RxChar.byte) = 0) ∧
      (readFields (m.map RxChar.byte)).isSome = true := by
  unfold readMessage
  dsimp only
  split
  · next whole =>
    have known := readFields_ne_badMessage (m.map RxChar.byte)
    cases h : readFields (m.map RxChar.byte) with
    | none => simp
    | some c => simpa [h, whole] using known
  · next broken => exact iff_of_false (fun h => h rfl) fun h => broken h.1

/-- Settles O6: the tests of R2 one by one, and the one effect of a bad message. -/
theorem badMessagesAreExactlyCounted : Obligations.BadMessagesAreExactlyCounted := by
  refine ⟨fun m => ?_, fun s hp => ?_⟩
  · rw [readMessage_ne_badMessage, readFields_isSome]
    simp [byteSum, Function.comp_def, and_assoc]
  · show execBadMessage s = _
    rw [execBadMessage, powered_next hp]
    rfl

/-- The check byte brings the sum of a message to zero (R2, R165). -/
theorem byteSum_withCheck (m : List Byte) : byteSum (withCheck m) = 0 := by
  have : byteSum m < 256 := Nat.mod_lt _ (by decide)
  simp only [byteSum, withCheck, List.map_append, List.map_cons, List.map_nil, List.sum_append, List.sum_cons,
    List.sum_nil, BitVec.toNat_ofNat] at *
  omega

/-- A message of seven bytes and their check byte, received without framing errors, is read by its fields. -/
theorem readMessage_withCheck {m : List Byte} (hm : m.length = 7) :
    readMessage ((withCheck m).map fun b => { byte := b, framed := true }) =
      (readFields (withCheck m)).getD .badMessage := by
  have bytes : ((withCheck m).map fun b => ({ byte := b, framed := true } : RxChar)).map RxChar.byte = withCheck m := by
    simp [Function.comp_def]
  unfold readMessage
  rw [bytes, if_pos]
  exact ⟨by simp [withCheck, hm], by simp, byteSum_withCheck m⟩

/-- The lane in bits 1..0 of the first byte, below the type nibble (R165). -/
theorem laneOf_ofNat (k : Nat) (lane : Fin 4) : laneOf (BitVec.ofNat 8 (16 * k + lane.val)) = lane := by
  have := lane.isLt
  apply Fin.ext
  simp only [laneOf, BitVec.toNat_ofNat]
  omega

theorem zoneOf_val (zone : Fin 8) : zoneOf zone.val = some zone := by simp [zoneOf]

theorem DefectType.ofCode_code (t : DefectType) : DefectType.ofCode t.code = some t := by cases t <;> rfl

theorem DefectType.code_lt (t : DefectType) : t.code < 16 := by cases t <;> decide

theorem HeadStatus.ofCode_code (h : HeadStatus) : HeadStatus.ofCode h.code = some h := by cases h <;> rfl

/-- A field of `n` bits beside its low byte is read back whole where its high bits stand low in a byte. -/
theorem split_field {n : Nat} (x : BitVec (n + 8)) (hn : n ≤ 8) :
    ((x.extractLsb' 8 n).setWidth 8).extractLsb' 0 n ++ x.extractLsb' 0 8 = x := by
  ext i hi
  simp only [BitVec.getElem_append, BitVec.getElem_extractLsb', BitVec.getLsbD_setWidth, BitVec.getLsbD_extractLsb']
  split
  · simp; rfl
  · simp; grind

/-- The type nibble of a message, above the lane (R165). -/
theorem type_nibble {k : Nat} (hk : k < 16) (lane : Fin 4) : (BitVec.ofNat 8 (16 * k + lane.val)).toNat / 16 = k := by
  have := lane.isLt
  simp only [BitVec.toNat_ofNat]
  omega

/-- The zone and the defect type that share a byte (R165). -/
theorem zone_and_type (zone : Fin 8) (type : DefectType) :
    (BitVec.ofNat 8 (zone.val * 16 + type.code)).toNat / 16 = zone.val ∧
      (BitVec.ofNat 8 (zone.val * 16 + type.code)).toNat % 16 = type.code := by
  have := DefectType.code_lt type
  have := zone.isLt
  simp only [BitVec.toNat_ofNat]
  omega

/-- The zone and the high bits of the raw reading that share a byte (R165). -/
theorem zone_and_raw (zone : Fin 8) (high : BitVec 4) :
    (BitVec.ofNat 4 zone.val ++ high).toNat / 16 = zone.val ∧
      (BitVec.ofNat 4 zone.val ++ high).extractLsb' 0 4 = high := by
  refine ⟨?_, ?_⟩
  · have := high.isLt
    rw [BitVec.toNat_append, Nat.shiftLeft_eq, ← Nat.shiftLeft_eq, ← Nat.shiftLeft_add_eq_or_of_lt high.isLt]
    simp only [BitVec.toNat_ofNat, Nat.shiftLeft_eq]
    omega
  · ext i hi
    simp only [BitVec.getElem_extractLsb', BitVec.getLsbD_append]
    simp [hi]

/-- Settles O4: the three kinds of message, their fields read back one by one. -/
theorem messageIsReadAsItsCommand : Obligations.MessageIsReadAsItsCommand := by
  intro c m hm
  cases c
  case defect lane tag zone type size =>
    obtain rfl := Option.some.inj hm
    have kind : (BitVec.ofNat 8 (0x10 + lane.val)).toNat / 16 = 1 := type_nibble (k := 1) (by decide) lane
    have lane_eq : laneOf (BitVec.ofNat 8 (0x10 + lane.val)) = lane := laneOf_ofNat 1 lane
    obtain ⟨zone_eq, type_eq⟩ := zone_and_type zone type
    have size_eq := split_field size (n := 2) (by decide)
    rw [readMessage_withCheck (by rfl), readFields]
    simp only [withCheck, byteAt, List.cons_append, List.getD_cons_zero, List.getD_cons_succ, kind, lane_eq, zone_eq,
      type_eq, zoneOf_val, DefectType.ofCode_code, size_eq]
    rfl
  case sample lane tag zone raw thickness temp =>
    obtain rfl := Option.some.inj hm
    have kind : (BitVec.ofNat 8 (0x20 + lane.val)).toNat / 16 = 2 := type_nibble (k := 2) (by decide) lane
    have lane_eq : laneOf (BitVec.ofNat 8 (0x20 + lane.val)) = lane := laneOf_ofNat 2 lane
    obtain ⟨zone_eq, high_eq⟩ := zone_and_raw zone (raw.extractLsb' 8 4)
    have raw_eq : raw.extractLsb' 8 4 ++ raw.extractLsb' 0 8 = raw := by
      rw [BitVec.extractLsb'_append_extractLsb'_eq_extractLsb' (by rfl)]; simp
    have thickness_eq := split_field thickness (n := 5) (by decide)
    rw [readMessage_withCheck (by rfl), readFields]
    simp only [withCheck, byteAt, List.cons_append, List.getD_cons_zero, List.getD_cons_succ, kind, lane_eq, zone_eq,
      high_eq, zoneOf_val, raw_eq, thickness_eq]
    rfl
  case laneDone lane tag status =>
    obtain rfl := Option.some.inj hm
    have kind : (BitVec.ofNat 8 (0x30 + lane.val)).toNat / 16 = 3 := type_nibble (k := 3) (by decide) lane
    have lane_eq : laneOf (BitVec.ofNat 8 (0x30 + lane.val)) = lane := laneOf_ofNat 3 lane
    have status_eq : (BitVec.ofNat 8 status.code).toNat = status.code := by cases status <;> rfl
    rw [readMessage_withCheck (by rfl), readFields]
    simp only [withCheck, byteAt, List.cons_append, List.getD_cons_zero, List.getD_cons_succ, kind, lane_eq,
      status_eq, HeadStatus.ofCode_code]
    rfl
  all_goals cases hm

end Sys2Proof.Machine

namespace Sys2Proof.Machine

/-! ## A step, an input and a millisecond (logs 1 and 2) -/

theorem Window.timedOut_iff (w : Window) : w.timedOut = true ↔ ∃ b answer, w = .opened b answer 0 := by
  cases w <;> simp [Window.timedOut]

theorem Entry.windowOver_iff (e : Entry) : e.windowOver = true ↔ e.state = .scanning 0 := by
  simp [Entry.windowOver]

theorem Bus.tick_of_not_waiting {b : Bus} (h : ∀ i n, b ≠ .waiting i n) : b.tick = b ∧ b.tick.waitOver = false := by
  cases b with
  | waiting i n => exact absurd rfl (h i n)
  | _ => exact ⟨rfl, rfl⟩

theorem Bus.tick_waitOver_iff (b : Bus) : b.tick.waitOver = true ↔ ∃ i n, b = .waiting i n ∧ 20 ≤ n + 1 := by
  cases b <;> simp [Bus.tick, Bus.waitOver, Config.ackWaitMs]

/-- A line's event is due exactly when its difference has lasted for 8 ms (R181). -/
theorem State.mem_lineEvent (s : State) (k : Fin 8) (c : Instr) :
    c ∈ s.lineEvent k ↔ 8 ≤ (s.lines.get k).differ ∧
      (((s.lines.get k).debounced = some false ∧ c = .lineEdge k) ∨
        ((s.lines.get k).debounced = some true ∧ c = .debouncedLevelInactive k)) := by
  unfold State.lineEvent
  split
  case h_1 h => simp [(Line.changeDue_eq_some _ _).1 h]
  case h_2 h => simp [(Line.changeDue_eq_some _ _).1 h]
  case h_3 h =>
    have early (active : Bool) := (Line.changeDue_eq_some (s.lines.get k) active).not.1 (by simp [h])
    refine iff_of_false (by simp) ?_
    rintro ⟨h8, ⟨hd, -⟩ | ⟨hd, -⟩⟩
    · exact early true ⟨h8, hd⟩
    · exact early false ⟨h8, hd⟩

/-- The commands that one millisecond brings, kind by kind (R15, R29, R128, R152, R181, R195). -/
theorem State.mem_due_advance (s : State) (c : Instr) :
    c ∈ s.advance.due ++ s.waitEnd ↔
      (c = .gradingComplete ∧ ∃ e ∈ s.table, e.state = .grading) ∨
      (∃ e ∈ s.advance.table, e.state = .scanning 0 ∧ c = .scanWindowExpiry e.tag) ∨
      (∃ a ∈ s.advance.active, a.hold = some 0 ∧ c = .holdTimerExpiry a.slot) ∨
      (∃ p b answer, (s.advance.port p).window = .opened b answer 0 ∧ c = .selectTimeout p) ∨
      (∃ k, 8 ≤ (s.advance.lines.get k).differ ∧
        (((s.advance.lines.get k).debounced = some false ∧ c = .lineEdge k) ∨
         ((s.advance.lines.get k).debounced = some true ∧ c = .debouncedLevelInactive k))) ∨
      (c = .storeEnd .waitPassed ∧ ∃ i n, s.bus = .waiting i n ∧ 20 ≤ n + 1) := by
  have busy : s.advance.engineBusy = true ↔ ∃ e ∈ s.table, e.state = .grading := by
    rw [engineBusy_iff]
    simp [State.advance, Entry.tick_state_iff]
  have engine : c ∈ (if s.advance.engineBusy then [Instr.gradingComplete] else []) ↔
      c = .gradingComplete ∧ ∃ e ∈ s.table, e.state = .grading := by
    rw [← busy]
    split <;> simp [*]
  have windows : c ∈ (s.advance.table.filter Entry.windowOver).map (fun e => .scanWindowExpiry e.tag) ↔
      ∃ e ∈ s.advance.table, e.state = .scanning 0 ∧ c = .scanWindowExpiry e.tag := by
    simp only [List.mem_map, List.mem_filter, Entry.windowOver_iff, and_assoc, eq_comm (a := c)]
  have holds : c ∈ (s.advance.active.filter Active.holdOver).map (fun a => .holdTimerExpiry a.slot) ↔
      ∃ a ∈ s.advance.active, a.hold = some 0 ∧ c = .holdTimerExpiry a.slot := by
    simp only [List.mem_map, List.mem_filter, Active.holdOver, decide_eq_true_eq, and_assoc, eq_comm (a := c)]
  have selects : c ∈ (allPorts.filter fun p => (s.advance.port p).window.timedOut).map .selectTimeout ↔
      ∃ p b answer, (s.advance.port p).window = .opened b answer 0 ∧ c = .selectTimeout p := by
    have every (p : Port) : p ∈ allPorts := by cases p <;> decide
    simp only [List.mem_map, List.mem_filter, every, true_and, Window.timedOut_iff, eq_comm (a := c),
      exists_and_right]
  have lines : c ∈ eight.flatMap s.advance.lineEvent ↔
      ∃ k, 8 ≤ (s.advance.lines.get k).differ ∧
        (((s.advance.lines.get k).debounced = some false ∧ c = .lineEdge k) ∨
         ((s.advance.lines.get k).debounced = some true ∧ c = .debouncedLevelInactive k)) := by
    simp [State.mem_lineEvent]
  have wait : c ∈ s.waitEnd ↔ c = .storeEnd .waitPassed ∧ ∃ i n, s.bus = .waiting i n ∧ 20 ≤ n + 1 := by
    rw [← Bus.tick_waitOver_iff]
    unfold State.waitEnd
    split <;> simp [*]
  simp only [State.due, List.mem_append, or_assoc, engine, windows, holds, selects, lines, wait]

/-- Settles O1: the three cases of a step, then the inputs one by one; what a millisecond makes due is
`State.mem_due_advance`. -/
theorem stepRunsTheFrontCommandOrIdles : Obligations.StepRunsTheFrontCommandOrIdles := by
  refine ⟨fun c rest s => rfl, fun s hp hi => ?_, fun i rest s hp hi => ?_, fun s =>
    ⟨fun x => rfl, fun h => ?_, fun hp hx => ?_, fun p => rfl, fun k high => rfl, fun n => ?_, rfl, rfl, rfl,
      fun hp => ?_, fun hp => ?_⟩⟩
  · simp [step, State.idleStep, hp, hi]
  · simp [step, State.idleStep, hp, hi]
  · rcases h with h | h <;> simp [State.takeInput, State.endMessage, h]
  · simp [State.takeInput, State.endMessage, State.enqueue, hp, hx]
  · simp [State.takeInput, State.enqueue, Config.lrstPeriods]
  · simp [State.takeInput, State.passMs, hp]
  · have passed : s.takeInput .ms = { s.advance with pending := s.pending ++ (s.advance.due ++ s.waitEnd) } := by
      simp [State.takeInput, State.passMs, hp]
    refine ⟨_, s.advance.due ++ s.waitEnd, passed, rfl, rfl, rfl, fun p => ?_, fun k => ?_, fun h => ?_, ?_,
      s.mem_due_advance⟩
    · refine (PerPort.get_of _ p).trans ?_
      cases (s.port p).window <;> rfl
    · refine (Oct.get_of _ k).trans ?_
      unfold State.lineActive
      obtain ⟨pin, _ | d, differ, latch, lapsed⟩ := s.lines.get k <;> rfl
    · obtain ⟨same, on⟩ := Bus.tick_of_not_waiting h
      show (if s.bus.tick.waitOver then _ else _) = _
      rw [if_neg (by simp [on]), same]
    · intro i n h
      show (if s.bus.tick.waitOver then _ else s.bus.tick) = _
      by_cases early : n + 1 < 20 <;> simp [h, Bus.tick, Bus.waitOver, Config.ackWaitMs, early] <;> omega

end Sys2Proof.Machine

namespace Sys2Proof.Machine

/-! ## Frames of a station that acts -/

/-- With no reset pin low, a decision that changes nothing leaves the answer alone. -/
theorem station_answers {s : State} (h : NoReset s) {p : Port} {tag : Byte} {acts : Bool}
    {body : State → State × Option Reply} (r : Reply) (hb : body (s.acceptFrame p) = (s.acceptFrame p, some r)) :
    station p tag true acts body s = .next (s.replied p tag r.code r.payload) :=
  station_unchanged h.1 ((dispatched_acts (s := s.acceptFrame p) body (.inl h.2)).trans hb)

/-- With no reset pin low, a decision that changes the rest of the block and answers. -/
theorem station_acts {s t : State} (h : NoReset s) {p : Port} {tag : Byte} {acts : Bool}
    {body : State → State × Option Reply} (r : Reply) (hb : body (s.acceptFrame p) = (t.acceptFrame p, some r)) :
    station p tag true acts body s = .next (t.replied p tag r.code r.payload) :=
  station_changed h.1 ((dispatched_acts (s := s.acceptFrame p) body (.inl h.2)).trans hb)

/-! ## The intake and the settings store (R17, R18, R194, R195) -/

theorem settingsBusy_iff (s : State) : s.settingsBusy = true ↔ s.op ≠ .idle := by
  simp [State.settingsBusy]

/-- The decisions of START, LOAD_SETTINGS and STORE_SETTINGS during a load or a store. -/
theorem operations_retry {s : State} (h : s.op ≠ .idle) :
    s.start = (s, some (Reply.bare .retry)) ∧ s.loadSettings = (s, some (Reply.bare .retry)) ∧
      s.storeSettings = (s, some (Reply.bare .retry)) := by
  simp [State.start, State.loadSettings, State.storeSettings, (settingsBusy_iff s).2 h, unchanged]

/-- START's decision while no load or store is under way (R17). -/
theorem State.start_idle {s : State} (h : s.op = .idle) :
    s.start = if s.settingsValid = false then (s, some (Reply.bare .refused))
      else if s.intake = .stopped then
        ({ s with intake := .running, suspended := none, resuming := none, retired := none }, some (Reply.ok []))
      else (s, some (Reply.ok [])) := by
  have free : s.settingsBusy = false := by simpa using (settingsBusy_iff s).not.2 (by simpa using h)
  simp [State.start, free, unchanged]

/-- The decisions of LOAD_SETTINGS and STORE_SETTINGS while no load or store is under way (R194, R195). -/
theorem State.settingsOperations_idle {s : State} (h : s.op = .idle) :
    s.loadSettings = (if s.quiet then ({ s with op := .loading, bus := .reading 0 [] }, some (Reply.ok []))
      else (s, some (Reply.bare .refused))) ∧
    s.storeSettings = ({ s with op := .storing, bus := .writing 0 0 }, some (Reply.ok [])) := by
  have free : s.settingsBusy = false := by simpa using (settingsBusy_iff s).not.2 (by simpa using h)
  cases hq : s.quiet <;> simp [State.loadSettings, State.storeSettings, free, hq, unchanged]

/-- Settles O29: each operation by the branches of its decision. -/
theorem intakeAndSettingsOperationsBegin : Obligations.IntakeAndSettingsOperationsBegin := by
  refine ⟨fun s => ?_, fun s tag h => ⟨fun busy => ?_, fun idle => ?_, station_acts h (Reply.ok []) rfl⟩⟩
  · simp [quiet_iff, settledTable]
  · obtain ⟨hstart, hload, hstore⟩ := operations_retry (s := s.acceptFrame .line) busy
    exact ⟨station_answers h _ hstart, station_answers h _ hload, station_answers h _ hstore⟩
  · have hstart := State.start_idle (s := s.acceptFrame .line) idle
    obtain ⟨hload, hstore⟩ := State.settingsOperations_idle (s := s.acceptFrame .line) idle
    refine ⟨?_, ?_, station_acts h (Reply.ok []) hstore⟩
    · split
      · next invalid => exact station_answers h _ (hstart.trans (if_pos invalid))
      · next valid =>
        have hstart := hstart.trans (if_neg valid)
        split
        · next stopped => exact station_acts h (Reply.ok []) (hstart.trans (if_pos stopped))
        · next running => exact station_answers h _ (hstart.trans (if_neg running))
    · split
      · next quiet => exact station_acts h (Reply.ok []) (hload.trans (if_pos quiet))
      · next unquiet => exact station_answers h _ (hload.trans (if_neg unquiet))

/-! ## LANE_UP (R24) -/

/-- The health records after LANE_UP of a lane (R24). -/
def State.healthAfterUp (s : State) (k : Fin 4) : Quad LaneHealth := s.health.set k { count := 0, down := false }

/-- The fault kinds after LANE_UP of a lane: LANE_DOWN is pending exactly while a lane is DOWN (R171). -/
def State.faultsAfterUp (s : State) (k : Fin 4) : PerFault FaultEntry :=
  s.faults.set .laneDown
    { s.faults.get .laneDown with pending := ({ s with health := s.healthAfterUp k } : State).anyDown }

/-- A lane's return to service, in a state whose faults are consistent (R24, R171, R172). -/
theorem State.returnLane_eq {s : State} (h : FaultInv s) (k : Fin 4) :
    s.returnLane k = { s with
      health := s.healthAfterUp k
      faults := s.faultsAfterUp k
      firstFault := if anyPending (s.faultsAfterUp k) then s.firstFault else none } := by
  obtain ⟨-, hd, -, -⟩ := (faultInv_iff s).1 h
  unfold State.returnLane
  dsimp only
  split
  next hdown =>
    obtain ⟨j, -, hj⟩ := ((anyDown_set s k _).1 hdown).resolve_left (by simp)
    have pending : (s.faults.get .laneDown).pending = true := hd.trans ((anyDown_iff s).2 ⟨j, hj⟩)
    have same : s.faultsAfterUp k = s.faults := by
      unfold State.faultsAfterUp State.healthAfterUp
      rw [hdown, ← pending]
      exact PerFault.set_get _ _
    rw [same, if_pos ((anyPending_eq _).2 ⟨_, pending⟩)]
    rfl
  next hup =>
    rw [State.faultEnds_eq]
    have : s.faultsAfterUp k = s.faults.set .laneDown { s.faults.get .laneDown with pending := false } := by
      rw [State.faultsAfterUp, State.healthAfterUp, Bool.eq_false_iff.2 hup]
    rw [this]
    rfl

/-- Settles O33. -/
theorem laneUpReturnsTheLane : Obligations.LaneUpReturnsTheLane := by
  intro s tag lane h hf
  refine ⟨fun high => ?_, fun k hk => ?_⟩
  · exact station_answers h (Reply.bare .badArgument) (by simp [State.laneUp, laneNumber, Nat.not_lt.2 high, unchanged])
  · have decision : (s.acceptFrame .line).laneUp lane = ((s.returnLane k).acceptFrame .line, some (Reply.ok [])) := by
      have known : laneNumber lane.toNat = some k := by simp [laneNumber, hk]
      rw [State.laneUp, known]
      dsimp only
      rw [State.returnLane_eq (s := s.acceptFrame .line) hf, State.returnLane_eq hf]
      rfl
    refine ⟨_, station_acts h (Reply.ok []) decision, ?_⟩
    rw [State.returnLane_eq hf]
    refine ⟨rfl, rfl, ?_, fun j => ?_, fun j hj => PerFault.get_set_ne _ _ hj, rfl, by simp [SameReceiver, State.replied],
      by simp [SameIntake, State.replied], by simp [SameTable, State.replied], rfl,
      by simp [SameOrders, State.replied], rfl, by simp [SameSettings, State.replied], by simp [SamePins, State.replied]⟩
    · show ((s.faultsAfterUp k).get .laneDown).pending = _
      rw [State.faultsAfterUp, PerFault.get_set_self]
      rfl
    · show ((s.faultsAfterUp k).get j).count = _
      rw [State.faultsAfterUp, PerFault.get_set]
      split
      · next hj => rw [hj]
      · rfl

/-! ## Reset (R197) -/

/-- Settles O60: every list is empty after reset, and the records, settings, ports and lines stand at their defaults. -/
theorem resetMeetsTheInvariants : Obligations.ResetMeetsTheInvariants := by
  have table : TableInv State.reset := by simp [TableInv, State.reset]
  have intake : IntakeInv State.reset := by simp [IntakeInv, State.reset, State.quiet]
  have bins : BinInv State.reset := by
    intro b
    have record : State.reset.bins.get b = Bin.reset Settings.defaults b := Oct.get_of _ b
    have capacity : Settings.defaults.binCapacity.get b = 200 := Oct.get_of _ b
    have margin : Settings.defaults.binMargin.get b = 10 := Oct.get_of _ b
    rw [record]
    simp [Bin.reset, Bin.count, State.reset, placedTo, capacity, margin]
  have orders : OrderInv State.reset := by
    have reserved (b : Fin 8) : (State.reset.bins.get b).reserved = 0 := by simp [State.reset, Bin.reset]
    refine ⟨by decide, .nil, .nil, .nil, nofun, nofun, by decide, reserved⟩
  have faults : FaultInv State.reset := by
    have kind (k : FaultKind) : State.reset.faults.get k = { pending := false, count := 0 } := PerFault.get_of _ k
    have health (k : Fin 4) : State.reset.health.get k = { count := 0, down := false } := Quad.get_of _ k
    exact ⟨by decide, by decide, by simp [kind], fun k => by simp [kind], nofun, fun k => by simp [health]⟩
  have ports : PortInv State.reset := by
    intro p
    have port : State.reset.port p = PortState.reset := PerPort.get_of _ p
    simp [port, PortState.reset]
  have lines : LineInv State.reset := by
    intro k
    have line : State.reset.lines.get k = Line.reset := Oct.get_of _ k
    have off : State.reset.ram.lineFunction.get k = .off := Oct.get_of _ k
    rw [line, off]
    decide
  exact ⟨table, intake, bins, orders, Settings.defaults_fits, faults, ports, lines, by decide⟩

end Sys2Proof.Machine

namespace Sys2Proof.Machine

/-! ## The resets (R197, R198) -/

/-- RESET_LINE's line reset, and the frame's acceptance, in either order. -/
theorem State.lineReset_acceptFrame (s : State) : (s.acceptFrame .line).lineReset = s.lineReset.acceptFrame .line := rfl

/-- Settles O52: the state after `State.lineReset`, taken by LRST_N or by RESET_LINE. -/
theorem lineResetClearsTheWorkAndKeepsTheStacks : Obligations.LineResetClearsTheWorkAndKeepsTheStacks := by
  intro s hp
  refine ⟨s.lineReset, fun p => ?_, fun k => Quad.get_of _ k, fun b => Oct.get_of _ b, fun k => Oct.get_of _ k, rfl,
    fun stays => ?_, fun hl tag => ?_⟩
  · exact PerPort.get_of _ p
  · show execLineReset stays s = _
    simp [execLineReset, hp]
  · refine station_acts ⟨hp, hl⟩ (Reply.ok []) ?_
    rw [State.lineReset_acceptFrame]

/-- While PORST_N is low a station frame has no effect (R146). -/
theorem station_held {s : State} (h : s.porstLow = true) (p : Port) (tag : Byte) (right acts : Bool)
    (body : State → State × Option Reply) : station p tag right acts body s = .next s :=
  powered_held h _

/-- While PORST_N is low no command acts but select's fall and the resets (R146, R197). -/
theorem exec_held {s : State} (h : s.porstLow = true) {c : Instr} (hselect : ∀ p, c ≠ .selectFall p)
    (hline : ∀ stays, c ≠ .lineReset stays) (hreset : c ≠ .powerOnReset) (hload : c ≠ .powerOnLoad) :
    exec c s = .next s := by
  cases c
  case selectFall p => exact absurd rfl (hselect p)
  case lineReset stays => exact absurd rfl (hline stays)
  case powerOnReset => exact absurd rfl hreset
  case powerOnLoad => exact absurd rfl hload
  case defect | sample | laneDone | badMessage | scanWindowExpiry | gradingComplete | holdTimerExpiry | lineEdge
    | debouncedLevelInactive | frameRejected | selectTimeout | unknownCommand | loadEnd | storeEnd =>
    simp only [exec, execDefect, execSample, execLaneDone, execBadMessage, execScanWindowExpiry, execGradingComplete,
      execHoldTimerExpiry, execLineEdge, execDebouncedLevelInactive, execFrameRejected, execSelectTimeout,
      execUnknownCommand, execLoadEnd, execStoreEnd, powered_held h]
  all_goals exact station_held h _ _ _ _ _

/-- No port presents a bit after PORST_N fell (R146, R160). -/
theorem Window.powerOn_closed (w : Window) : ∀ status answer n, w.powerOn ≠ .opened status answer n := by
  cases w <;> nofun

theorem PortState.sdo_closed {ps : PortState} (h : ∀ status answer n, ps.window ≠ .opened status answer n) :
    ps.sdo = none := by
  unfold PortState.sdo
  split
  next status answer n hw => exact absurd hw (h status answer n)
  all_goals rfl

/-- Settles O53: the fall of PORST_N, the part while it is low, and its rise. -/
theorem powerOnResetHoldsAndReleasesThePart : Obligations.PowerOnResetHoldsAndReleasesThePart := by
  refine ⟨fun s => ⟨s.powerOn, rfl, rfl, rfl, rfl, rfl, rfl, rfl, rfl, rfl, rfl, rfl, rfl, rfl, fun k => Quad.get_of _ k,
    fun b => ?_, rfl, rfl, rfl, rfl, fun p => ?_, fun k => PerFault.get_of _ k, rfl, fun k => ⟨Oct.get_of _ k, rfl⟩, rfl,
    rfl, rfl, rfl, rfl, rfl⟩, fun s hp => ⟨fun p => ?_, ?_, fun c => exec_held hp, fun p => ⟨_, ?_, rfl, ?_⟩, fun stays => ?_,
    fun hl => ?_, fun hl => ?_⟩, ?_⟩
  · show (Oct.of (Bin.reset Settings.defaults)).get b = _
    simp [Bin.reset, Settings.defaults]
  · have port : s.powerOn.port p =
        { PortState.reset with window := (s.port p).window.powerOn, sck := (s.port p).sck } := PerPort.get_of _ p
    rw [port]
    exact ⟨rfl, PortState.sdo_closed (Window.powerOn_closed _)⟩
  · simp [State.attnAsserted, hp]
  · simp [State.faultN, hp]
  · show execSelectFall p s = _
    simp [execSelectFall, hp]
  · rw [State.setPort_port, if_pos rfl]
    rfl
  · show execLineReset stays s = _
    simp [execLineReset, hp]
  · show execPowerOnLoad s = _
    simp [execPowerOnLoad, State.powerUp, hp, hl]
  · show execPowerOnLoad s = execLineReset true _
    simp [execPowerOnLoad, execLineReset, State.powerUp, State.lineReset, hp, hl]
  · rfl

end Sys2Proof.Machine

namespace Sys2Proof.Machine

/-! ## Acceptance of a frame commutes with what a decision sets (R151) -/

theorem State.setFlag_acceptFrame (s : State) (p : Port) (pn : Port × Nat) :
    (s.acceptFrame p).setFlag pn = (s.setFlag pn).acceptFrame p := by
  obtain ⟨q, n⟩ := pn
  cases p <;> cases q <;> rfl

theorem State.raise_acceptFrame (s : State) (p : Port) (e : Event) :
    (s.acceptFrame p).raise e = (s.raise e).acceptFrame p := by
  unfold State.raise
  induction e.bits generalizing s with
  | nil => rfl
  | cons pn l ih => rw [List.foldl_cons, List.foldl_cons, State.setFlag_acceptFrame, ih]

theorem State.raiseIf_acceptFrame (s : State) (p : Port) (c : Bool) (e : Event) :
    (s.acceptFrame p).raiseIf c e = (s.raiseIf c e).acceptFrame p := by
  cases c
  · rfl
  · exact s.raise_acceptFrame p e

theorem State.announce_acceptFrame (s u : State) (p : Port) :
    (s.acceptFrame p).announce (u.acceptFrame p) = (s.announce u).acceptFrame p := by
  unfold State.announce
  rw [State.raiseIf_acceptFrame, State.raiseIf_acceptFrame]
  rfl

theorem State.faultOccurs_acceptFrame (s : State) (p : Port) (k : FaultKind) :
    (s.acceptFrame p).faultOccurs k = (s.faultOccurs k).acceptFrame p := by
  unfold State.faultOccurs
  dsimp only [State.acceptFrame_faults]
  split
  · rfl
  · exact State.raise_acceptFrame { s with faults := _, firstFault := s.recordFault k } p .faultRaised

/-- A decision of the S port that announces its effect. -/
theorem stacker_announces {s u : State} (h : NoReset s) {tag : Byte} {body : State → State × Option Reply} (r : Reply)
    (hb : body (s.acceptFrame .stacker) = ((s.acceptFrame .stacker).announce (u.acceptFrame .stacker), some r)) :
    station .stacker tag true false body s = .next ((s.announce u).replied .stacker tag r.code r.payload) :=
  station_acts h r (hb.trans (by rw [State.announce_acceptFrame]))

/-! ## The table split at its oldest entries (R7) -/

theorem State.oldestUnplaced_split {s : State} {older younger : List Entry} {e : Entry}
    (hs : s.table = older ++ e :: younger) (ho : ∀ x ∈ older, x.isPlaced = true) (he : e.isPlaced = false) :
    s.oldestUnplaced = some e := by
  unfold State.oldestUnplaced
  rw [hs]
  exact find_split (fun x hx => by simp [ho x hx]) (by simp [he])

/-- The oldest PLACED entry is the oldest entry, if that is PLACED. -/
theorem TableInv.oldestPlaced {s : State} (h : TableInv s) : s.oldestPlaced = s.table.head?.filter Entry.isPlaced := by
  obtain ⟨-, -, hp, -⟩ := h
  unfold State.oldestPlaced
  cases hs : s.table with
  | nil => rfl
  | cons x l =>
    rw [hs, List.pairwise_cons] at hp
    cases hx : x.isPlaced with
    | true => simp [Option.filter, hx]
    | false =>
      have rest : ∀ y ∈ l, ¬ y.isPlaced = true := fun y hy hpy => by simpa [hx] using hp.1 y hy hpy
      simpa [Option.filter, hx] using rest

/-! ## An entry leaves the table (R7, R16, R28) -/

/-- No tag is held for an entry that is not SCANNING (R16). -/
theorem IntakeInv.not_held {s : State} (h : IntakeInv s) (ht : TableInv s) {older younger : List Entry} {e : Entry}
    (hs : s.table = older ++ e :: younger) (he : e.isScanning = false) :
    s.resuming ≠ some e.tag ∧ s.retired.bind Retired.heir ≠ some e.tag := by
  have others := ht.tags hs
  have unscanned : ¬ scanningTag s.table e.tag := by
    rintro ⟨x, hx, htag, hscan⟩
    rw [hs, List.mem_append, List.mem_cons] at hx
    obtain hx | rfl | hx := hx
    · exact others x (by simp [hx]) htag
    · simp [he] at hscan
    · exact others x (by simp [hx]) htag
  obtain ⟨-, -, -, hresuming, hheir, -⟩ := (intakeInv_iff s).1 h
  exact ⟨fun h => unscanned (hresuming _ h).2, fun h => unscanned (hheir _ h)⟩

/-- What the engine leaves of the table from which an entry was removed: its oldest READY entry taken, where the removed
one was GRADING, and otherwise the rest as it is. -/
def EngineLeaves (older : List Entry) (e : Entry) (younger left : List Entry) : Prop :=
  ((e.state ≠ .grading ∨ ∀ x ∈ younger, x.state ≠ .ready) ∧ left = older ++ younger) ∨
    (e.state = .grading ∧ ∃ before x after, younger = before ++ x :: after ∧ x.state = .ready ∧
      (∀ y ∈ before, y.state ≠ .ready) ∧ left = older ++ before ++ { x with state := .grading } :: after)

/-- The engine after an entry behind PLACED ones has left the table. -/
theorem State.engineTake_removed {s u : State} (ht : TableInv s) {older younger left : List Entry} {e : Entry}
    (hs : s.table = older ++ e :: younger) (ho : ∀ x ∈ older, x.isPlaced = true)
    (hl : EngineLeaves older e younger left) (hu : u.table = older ++ younger) :
    u.engineTake = { u with table := left } := by
  have placed : ∀ x ∈ older, x.state ≠ .ready := fun x hx hr => by simpa [Entry.isPlaced, hr] using ho x hx
  obtain ⟨-, -, -, hgrading, hserve, -⟩ := id ht
  rw [hs] at hserve hgrading
  obtain ⟨he, rfl⟩ | ⟨he, before, x, after, rfl, hx, hb, rfl⟩ := hl
  · rw [State.engineTake_none, ← hu]
    rw [engineBusy_iff, hu]
    by_cases hready : ∃ x ∈ older ++ younger, x.state = .ready
    · obtain ⟨x, hx, hxr⟩ := hready
      obtain ⟨y, hy, hyg⟩ := hserve ⟨x, by simp at hx ⊢; tauto, hxr⟩
      refine .inl ⟨y, ?_, hyg⟩
      have : y ≠ e := by
        rintro rfl
        have hnone := he.resolve_left (not_not.2 hyg)
        rcases List.mem_append.1 hx with hx | hx
        · exact placed x hx hxr
        · exact hnone x hx hxr
      simp at hy ⊢
      tauto
    · exact .inr fun x hx hr => hready ⟨x, hx, hr⟩
  · have idle : u.engineBusy = false := by
      rw [Bool.eq_false_iff, ne_eq, engineBusy_iff, hu]
      rintro ⟨y, hy, hyg⟩
      rw [List.pairwise_append, List.pairwise_cons] at hgrading
      rcases List.mem_append.1 hy with hy | hy
      · exact hgrading.2.2 y hy e (by simp) ⟨hyg, he⟩
      · exact hgrading.2.1.1 y hy ⟨he, hyg⟩
    have tags : ∀ y ∈ (older ++ before) ++ after, y.tag ≠ x.tag := by
      have others := ht.tags (older := older ++ e :: before) (by simpa using hs)
      intro y hy
      exact others y (by simp at hy ⊢; tauto)
    exact State.engineTake_some idle (by rw [hu]; simp) (fun y hy => (List.mem_append.1 hy).elim (placed y) (hb y)) hx tags

/-- The state after an entry left the table, the tags held for it let go and the engine served (R7, R16, R28). -/
theorem State.removeEntry_left {s v : State} (ht : TableInv s) {older younger left : List Entry} {e : Entry}
    (hs : s.table = older ++ e :: younger) (ho : ∀ x ∈ older, x.isPlaced = true)
    (hl : EngineLeaves older e younger left) (hv : v.table = s.table) :
    v.removeEntry e = { v with
      table := left
      suspended := if v.resuming = some e.tag then none else v.suspended
      resuming := if v.resuming = some e.tag then none else v.resuming
      retired := if v.retired.bind Retired.heir = some e.tag then none else v.retired } := by
  unfold State.removeEntry
  rw [hv, hs, filter_split (ht.tags hs), State.letGo_eq]
  exact State.engineTake_removed ht hs ho hl rfl

/-- The state after an entry that is not SCANNING left the table: no tag was held for it. -/
theorem State.removeEntry_settled {s v : State} (ht : TableInv s) (hi : IntakeInv s)
    {older younger left : List Entry} {e : Entry} (hs : s.table = older ++ e :: younger)
    (ho : ∀ x ∈ older, x.isPlaced = true) (hl : EngineLeaves older e younger left) (hv : v.table = s.table)
    (hr : v.resuming = s.resuming) (hret : v.retired = s.retired) (he : e.isScanning = false) :
    v.removeEntry e = { v with table := left } := by
  obtain ⟨hresuming, hheir⟩ := hi.not_held ht hs he
  rw [State.removeEntry_left ht hs ho hl hv]
  simp [hr, hret, hresuming, hheir]

/-- The unscanned count of an entry behind no unscanned sheet goes whole to the pending count (R20). -/
theorem State.carryUnscanned_eq {s : State} {e : Entry} (ha : s.ahead = 0) (hu : e.unscanned ≤ 255) :
    s.carryUnscanned e = { s with ahead := e.unscanned } := by
  simp [State.carryUnscanned, Config.unscannedMax, ha, hu]

/-! ## WHERE (R78 to R81) -/

theorem TableInv.unscanned_le {s : State} (h : TableInv s) {older younger : List Entry} {e : Entry}
    (hs : s.table = older ++ e :: younger) : e.unscanned ≤ 255 := by
  obtain ⟨-, -, -, -, -, -, hcounts, -⟩ := h
  exact (hcounts e (by simp [hs])).1

/-- WHERE's decision on the oldest unplaced entry (R78). -/
theorem State.whereNext_graded {s : State} (ha : s.ahead = 0) {e : Entry} (he : s.oldestUnplaced = some e)
    {r : SheetRecord} (hg : e.state = .graded r) : s.whereNext = s.whereGraded e r := by
  simp [State.whereNext, ha, he, hg]

/-- The entry goes to the gate (R79). -/
theorem State.gate_eq {s : State} (ht : TableInv s) (hi : IntakeInv s) (ha : s.ahead = 0) {older younger : List Entry}
    {e : Entry} (hs : s.table = older ++ e :: younger) (ho : ∀ x ∈ older, x.isPlaced = true) {r : SheetRecord}
    (hg : e.state = .graded r) : s.gate e = { s with table := older ++ younger, ahead := e.unscanned } := by
  unfold State.gate
  rw [State.carryUnscanned_eq ha (ht.unscanned_le hs)]
  exact State.removeEntry_settled ht hi hs ho (.inl ⟨.inl (by simp [hg]), rfl⟩) rfl rfl rfl (by simp [Entry.isScanning, hg])

/-- The entry is placed to a bin (R80, R84). -/
theorem State.place_eq {s : State} (ht : TableInv s) (ha : s.ahead = 0) {older younger : List Entry} {e : Entry}
    (hs : s.table = older ++ e :: younger) (r : SheetRecord) (b : Fin 8) :
    s.place e r b = { s with
      table := older ++ { e with state := .placed (r.placeIn (s.bins.get b).cls) b, unscanned := 0 } :: younger
      ahead := e.unscanned
      bins := s.bins.set b { s.bins.get b with inbound := (s.bins.get b).inbound + 1 } } := by
  unfold State.place
  rw [State.carryUnscanned_eq ha (ht.unscanned_le hs), State.setEntry_split (s := { s with ahead := e.unscanned })
    (e' := { e with state := .placed (r.placeIn (s.bins.get b).cls) b, unscanned := 0 }) hs rfl (ht.tags hs)]
  rfl

/-- WHERE as a frame: its decision announced, and its answer. -/
theorem exec_whereTo {s u : State} (h : NoReset s) (tag : Byte) (a : WhereAnswer)
    (hw : (s.acceptFrame .stacker).whereNext = (u.acceptFrame .stacker, a)) :
    exec (.whereTo .stacker tag) s = .next ((s.announce u).replied .stacker tag .ok a.payload) :=
  stacker_announces h (Reply.ok a.payload) (by rw [hw])

/-- Settles O37: WHERE's decision on the oldest unplaced entry, and the walk's bin. -/
theorem wherePlacesTheOldestGradedSheet : Obligations.WherePlacesTheOldestGradedSheet := by
  intro s tag older younger e r k b h ht ha hs ho hg hd hw cls placed u
  have unplaced : e.isPlaced = false := by simp [Entry.isPlaced, hg]
  have record : r.placeIn cls = { r with placedClass := some cls, degraded := decide (cls ≠ k) } := by
    simp [SheetRecord.placeIn, hd, eq_comm]
  have decision : (s.acceptFrame .stacker).whereNext =
      (u.acceptFrame .stacker, .bin b e.sheet (.bin k) cls) := by
    rw [State.whereNext_graded (s := s.acceptFrame .stacker) ha (State.oldestUnplaced_split (s := s.acceptFrame .stacker) hs ho unplaced) hg]
    unfold State.whereGraded
    rw [hd]
    dsimp only
    rw [show walk (s.acceptFrame .stacker).ram (s.acceptFrame .stacker).bins k = some b from hw]
    dsimp only
    rw [State.place_eq (s := s.acceptFrame .stacker) ht ha hs]
    rw [show r.placeIn ((s.acceptFrame .stacker).bins.get b).cls = _ from record]
    rfl
  exact exec_whereTo h tag _ decision

/-- Settles O38: the branches of WHERE's decision that place nothing. -/
theorem whereAnswersWithoutPlacing : Obligations.WhereAnswersWithoutPlacing := by
  intro s tag h ht hi
  have silent (a : WhereAnswer) (hw : (s.acceptFrame .stacker).whereNext = (s.acceptFrame .stacker, a)) :
      exec (.whereTo .stacker tag) s = .next (s.replied .stacker tag .ok a.payload) := by
    rw [exec_whereTo h tag a hw, State.announce_self]
  refine ⟨fun ha => ?_, fun ha hp => ?_, fun ha older younger e hs ho => ⟨fun he => ?_, fun r hg noRoom hw => ?_⟩⟩
  · have decision : (s.acceptFrame .stacker).whereNext =
        (({ s with ahead := s.ahead - 1 } : State).acceptFrame .stacker, .unscanned) :=
      if_pos (Nat.pos_of_ne_zero ha)
    rw [exec_whereTo h tag _ decision, State.announce_of_length (s := s) (t := { s with ahead := s.ahead - 1 }) rfl rfl rfl]
    rfl
  · refine silent .none ?_
    have none_left : (s.acceptFrame .stacker).oldestUnplaced = none := by
      simpa [State.oldestUnplaced] using hp
    simp [State.whereNext, ha, none_left]
  · refine silent .wait ?_
    have unplaced : e.isPlaced = false := by
      obtain he | he | he := he
      · obtain ⟨left, hl⟩ := (Entry.isScanning_iff e).1 he
        simp [Entry.isPlaced, hl]
      · simp [Entry.isPlaced, he]
      · simp [Entry.isPlaced, he]
    have oldest := State.oldestUnplaced_split (s := s.acceptFrame .stacker) hs ho unplaced
    unfold State.whereNext
    rw [if_neg (by simp [ha]), oldest]
    dsimp only
    cases hst : e.state with
    | graded r => simp [Entry.isScanning, hst] at he
    | _ => rfl
  · have unplaced : e.isPlaced = false := by simp [Entry.isPlaced, hg]
    have decision : (s.acceptFrame .stacker).whereNext =
        (({ s with table := older ++ younger, ahead := e.unscanned } : State).acceptFrame .stacker, .gate e.sheet noRoom) := by
      rw [State.whereNext_graded (s := s.acceptFrame .stacker) ha
        (State.oldestUnplaced_split (s := s.acceptFrame .stacker) hs ho unplaced) hg]
      have gate : (s.acceptFrame .stacker).gate e = _ := State.gate_eq (s := s.acceptFrame .stacker) ht hi ha hs ho hg
      unfold State.whereGraded
      obtain ⟨hd, rfl⟩ | ⟨k, hd, hwalk, rfl⟩ := hw
      · rw [hd]
        dsimp only
        rw [gate]
        rfl
      · rw [hd]
        dsimp only
        rw [show walk (s.acceptFrame .stacker).ram (s.acceptFrame .stacker).bins k = none from hwalk]
        dsimp only
        rw [gate]
        rfl
    rw [exec_whereTo h tag _ decision]
    cases noRoom <;> rfl

end Sys2Proof.Machine

namespace Sys2Proof.Machine

/-! ## DIVERT (R87 to R89) -/

/-- An entry with no unscanned sheet after it leaves the pending count (R20). -/
theorem State.carryUnscanned_zero {s : State} {e : Entry} (ha : s.ahead ≤ 255) (hu : e.unscanned = 0) :
    s.carryUnscanned e = s := by
  unfold State.carryUnscanned
  rw [hu, Nat.add_zero, min_eq_right (show s.ahead ≤ Config.unscannedMax from ha)]

/-- DIVERT of the oldest PLACED entry (R87). -/
theorem State.divertPlaced_eq {s : State} (ht : TableInv s) (hi : IntakeInv s) {younger : List Entry} {e : Entry}
    (hs : s.table = e :: younger) {r : SheetRecord} {b : Fin 8} (hp : e.state = .placed r b) :
    s.divertPlaced e b = { s with
      table := younger
      bins := s.bins.set b { s.bins.get b with inbound := (s.bins.get b).inbound - 1 } } := by
  obtain ⟨-, -, -, -, -, -, hcounts, hahead⟩ := id ht
  have unscanned : e.unscanned = 0 := (hcounts e (by simp [hs])).2.1 (by simp [Entry.isPlaced, hp])
  have carried : (s.inboundDown b).carryUnscanned e = s.inboundDown b := State.carryUnscanned_zero hahead unscanned
  have leaves : EngineLeaves [] e younger younger := .inl ⟨.inl (by simp [hp]), rfl⟩
  unfold State.divertPlaced
  rw [carried, State.removeEntry_settled (v := s.inboundDown b) ht hi (older := []) hs (by simp) leaves rfl rfl rfl
    (by simp [Entry.isScanning, hp])]
  rfl

/-- DIVERT of the oldest unplaced entry (R88). -/
theorem State.divertUnplaced_eq {s : State} (ht : TableInv s) (hi : IntakeInv s) (ha : s.ahead = 0)
    {older younger left : List Entry} {e : Entry} (hs : s.table = older ++ e :: younger)
    (ho : ∀ x ∈ older, x.isPlaced = true) (hl : EngineLeaves older e younger left) :
    s.divertUnplaced e = { s with
      table := left
      ahead := e.unscanned
      suspended := if s.resuming = some e.tag then none else s.suspended
      resuming := if s.resuming = some e.tag then none else s.resuming
      retired := if e.isScanning then some { tag := e.tag, heir := none } else s.retired } := by
  unfold State.divertUnplaced
  rw [State.carryUnscanned_eq ha (ht.unscanned_le hs),
    State.removeEntry_left (v := { s with ahead := e.unscanned }) ht hs ho hl rfl]
  cases he : e.isScanning with
  | true => rfl
  | false => simp [(hi.not_held ht hs he).2]

/-- DIVERT's decision when its number is not that of an oldest entry that is PLACED. -/
theorem State.divert_other {s : State} (ht : TableInv s) {sheet : Word}
    (hn : ∀ x, s.table.head? = some x → x.isPlaced = true → x.sheet ≠ sheet) : s.divert sheet = s.divertOther sheet := by
  unfold State.divert
  rw [ht.oldestPlaced]
  cases hh : s.table.head? with
  | none => rfl
  | some x =>
    cases hx : x.isPlaced with
    | false => simp [Option.filter, hx]
    | true =>
      obtain ⟨r, b, hxp⟩ := (Entry.isPlaced_iff x).1 hx
      simp [Option.filter, hx, hxp, hn x hh hx]

/-- Settles O40: the oldest entry, the oldest unplaced one, or neither. -/
theorem divertRemovesTheSheet : Obligations.DivertRemovesTheSheet := by
  intro s tag sheet h ht hi
  refine ⟨fun e younger r b hs hp hn => ?_, fun older younger left e hs ho he hn ha hx hl => ?_, fun hplaced hunplaced => ?_⟩
  · refine stacker_announces h (Reply.ok [byteOf 0, byteOf b.val]) ?_
    have oldest : (s.acceptFrame .stacker).oldestPlaced = some e := by
      rw [TableInv.oldestPlaced (s := s.acceptFrame .stacker) ht]
      simp [hs, Option.filter, Entry.isPlaced, hp]
    unfold State.divert
    rw [oldest]
    dsimp only
    rw [hp]
    dsimp only
    rw [if_pos hn, State.divertPlaced_eq (s := s.acceptFrame .stacker) ht hi hs hp]
    rfl
  · refine stacker_announces h (Reply.ok [byteOf 1, byteOf e.state.code]) ?_
    have decision : (s.acceptFrame .stacker).divert sheet = (s.acceptFrame .stacker).divertOther sheet := by
      refine State.divert_other (s := s.acceptFrame .stacker) ht fun x hx0 hxp => ?_
      have head : (older ++ e :: younger).head? = some x := hs ▸ hx0
      cases older with
      | nil =>
        obtain rfl : e = x := by simpa using head
        simp [he] at hxp
      | cons y l => exact hx x (by simpa using head)
    rw [decision, State.divertOther, State.oldestUnplaced_split (s := s.acceptFrame .stacker) hs ho he]
    dsimp only
    rw [if_pos ⟨hn, ha⟩, State.divertUnplaced_eq (s := s.acceptFrame .stacker) ht hi ha hs ho hl]
    rfl
  · refine station_acts h (Reply.bare .outOfOrder) ?_
    rw [State.divert_other (s := s.acceptFrame .stacker) ht hplaced]
    have refused : (s.acceptFrame .stacker).outOfOrder =
        ((s.faultOccurs .outOfOrder).acceptFrame .stacker, some (Reply.bare .outOfOrder)) := by
      rw [State.outOfOrder, State.faultOccurs_acceptFrame]
    unfold State.divertOther
    split
    next x hx =>
      rw [if_neg, refused]
      rintro ⟨hn, ha⟩
      exact (hunplaced x hx).elim (fun h => h hn) fun h => h ha
    next => exact refused

end Sys2Proof.Machine

namespace Sys2Proof.Machine

/-! ## The lanes' outcomes at a completion (R22, R63, R171) -/

/-- A final lane that neither reported nor was DOWN at the opening FAILED (R63). -/
def LaneState.failed (st : LaneState) : Bool := st.final && st ≠ .done && st ≠ .missing .down

/-- The count of a lane after one more failure (R22). -/
def State.failures (s : State) (k : Fin 4) : Nat := min 15 ((s.health.get k).count + 1)

/-- A lane goes DOWN with the failure of an entry whose lanes came to these states (R22). -/
def State.goesDown (s : State) (st : Fin 4 → LaneState) (k : Fin 4) : Bool :=
  (st k).failed && !(s.health.get k).down && s.ram.laneDownCount ≤ s.failures k

/-- A lane's health record after its outcome (R22, R63). -/
def State.healthAfter (s : State) (st : Fin 4 → LaneState) (k : Fin 4) : LaneHealth :=
  if st k = .done then { s.health.get k with count := 0 }
  else if (st k).failed then { count := s.failures k, down := (s.health.get k).down || s.goesDown st k }
  else s.health.get k

/-- The flags that the outcomes of some lanes set: LANE_FAULTED, LANE_DOWN and FAULT_RAISED. -/
def State.outcomeFlags (s : State) (st : Fin 4 → LaneState) (l : List (Fin 4)) : List (Port × Nat) :=
  (if l.any fun k => (st k).failed then [(.line, 1)] else []) ++
    (if l.any (s.goesDown st) then [(.line, 2)] else []) ++
    (if l.any (s.goesDown st) && !(s.faults.get .laneDown).pending then [(.line, 6)] else [])

theorem State.mem_outcomeFlags (s : State) (st : Fin 4 → LaneState) (l : List (Fin 4)) (x : Port × Nat) :
    x ∈ s.outcomeFlags st l ↔ ((l.any fun k => (st k).failed) = true ∧ x = (.line, 1)) ∨
      (l.any (s.goesDown st) = true ∧ x = (.line, 2)) ∨
      ((l.any (s.goesDown st) = true ∧ (s.faults.get .laneDown).pending = false) ∧ x = (.line, 6)) := by
  simp only [State.outcomeFlags, List.mem_append, List.mem_ite_nil_right, List.mem_singleton, Bool.and_eq_true,
    Bool.not_eq_true', or_assoc]

/-- What the outcomes of some lanes make of the state, the lanes in their order (R22, R171, R172). -/
structure OutcomesOf (s : State) (st : Fin 4 → LaneState) (l : List (Fin 4)) (u : State) : Prop where
  health : ∀ k, u.health.get k = if k ∈ l then s.healthAfter st k else s.health.get k
  flags : FlagsRaised s u (s.outcomeFlags st l)
  ports : SamePortsButFlags s u
  laneDown : u.faults.get .laneDown = {
    pending := (s.faults.get .laneDown).pending || l.any (s.goesDown st)
    count := if l.any (s.goesDown st) then min 255 ((s.faults.get .laneDown).count + (l.filter (s.goesDown st)).length)
      else (s.faults.get .laneDown).count }
  otherKinds : ∀ j, j ≠ .laneDown → u.faults.get j = s.faults.get j
  firstFault : u.firstFault =
    if l.any (s.goesDown st) && !(s.faults.get .laneDown).pending then s.recordFault .laneDown else s.firstFault
  frame : u = { s with health := u.health, ports := u.ports, faults := u.faults, firstFault := u.firstFault }

/-- The event flags are raised as a set. -/
theorem FlagsRaised.congr {s t : State} {l m : List (Port × Nat)} (h : FlagsRaised s t l) (hl : ∀ x, x ∈ l ↔ x ∈ m) :
    FlagsRaised s t m := by
  intro p n hn
  rw [h p n hn]
  simp only [hl]

theorem OutcomesOf.none (s : State) (st : Fin 4 → LaneState) : OutcomesOf s st [] s where
  health := by simp
  flags := fun p n _ => by simp [State.outcomeFlags]
  ports := fun p => rfl
  laneDown := by simp
  otherKinds := fun _ _ => rfl
  firstFault := by simp
  frame := rfl

/-- A lane whose health and settings are as they were goes DOWN, and has the outcome, that it would have had before. -/
theorem goesDown_congr {s u : State} {st : Fin 4 → LaneState} {k : Fin 4} (hh : u.health.get k = s.health.get k)
    (hr : u.ram = s.ram) : u.goesDown st k = s.goesDown st k ∧ u.healthAfter st k = s.healthAfter st k := by
  have failures : u.failures k = s.failures k := by rw [State.failures, hh]; rfl
  have down : u.goesDown st k = s.goesDown st k := by rw [State.goesDown, hh, hr, failures]; rfl
  refine ⟨down, ?_⟩
  rw [State.healthAfter, hh, failures, down]
  rfl

/-- A lane that did not fail sets no flag, goes not DOWN and leaves the faults (R22, R63). -/
theorem OutcomesOf.calm {s : State} {st : Fin 4 → LaneState} {k : Fin 4} (h : (st k).failed = false) :
    OutcomesOf s st [k] { s with health := s.health.set k (s.healthAfter st k) } := by
  have down : s.goesDown st k = false := by simp [State.goesDown, h]
  refine ⟨fun j => ?_, fun p n _ => ?_, fun p => rfl, ?_, fun _ _ => rfl, ?_, rfl⟩
  · simp only [Quad.get_set, List.mem_singleton]
    split
    · next hj => rw [hj]
    · rfl
  · simp [State.outcomeFlags, h, down, State.port]
  · simp [down]
  · simp [down]

/-- A lane's counted failure raises LANE_FAULTED (R22). -/
theorem State.countFailure_flags (s : State) (k : Fin 4) :
    FlagsRaised s (s.countFailure k) [(.line, 1)] ∧ SamePortsButFlags s (s.countFailure k) :=
  ⟨State.raise_raised { s with health := _ } .laneFaulted, State.raise_same { s with health := _ } .laneFaulted⟩

theorem State.countFailure_eq (s : State) (k : Fin 4) :
    s.countFailure k = { s with
      health := s.health.set k { s.health.get k with count := s.failures k }
      ports := (s.countFailure k).ports } :=
  State.raise_ports_eq { s with health := _ } .laneFaulted

/-- A lane that goes DOWN raises LANE_DOWN, and FAULT_RAISED where the kind was not pending (R22, R171). -/
theorem State.takeDown_flags (s : State) (k : Fin 4) (n : Nat) :
    FlagsRaised s (s.takeDown k n) ((.line, 2) :: if (s.faults.get .laneDown).pending then [] else [(.line, 6)]) ∧
      SamePortsButFlags s (s.takeDown k n) := by
  refine ⟨?_, ?_⟩
  · have flags := (State.raise_raised { s with health := s.health.set k { count := n, down := true } } .laneDown).trans
      (State.faultOccurs_raised _ .laneDown)
    rwa [State.raise_faults] at flags
  · exact SamePortsButFlags.trans
      (State.raise_same { s with health := s.health.set k { count := n, down := true } } .laneDown)
      (State.faultOccurs_same _ .laneDown)

theorem State.takeDown_frame (s : State) (k : Fin 4) (n : Nat) :
    s.takeDown k n = { s with
      health := s.health.set k { count := n, down := true }, ports := (s.takeDown k n).ports
      faults := (s.takeDown k n).faults, firstFault := (s.takeDown k n).firstFault } :=
  State.faultOccurs_faults_eq (({ s with health := s.health.set k { count := n, down := true } } : State).raise .laneDown)
    .laneDown

theorem State.takeDown_faults (s : State) (k : Fin 4) (n : Nat) :
    (s.takeDown k n).faults =
      s.faults.set .laneDown { pending := true, count := min 255 ((s.faults.get .laneDown).count + 1) } := by
  rw [State.takeDown, State.faultOccurs_faults, State.raise_faults]

theorem State.takeDown_firstFault (s : State) (k : Fin 4) (n : Nat) :
    (s.takeDown k n).firstFault =
      if (s.faults.get .laneDown).pending then s.firstFault else s.recordFault .laneDown := by
  rw [State.takeDown, State.faultOccurs_firstFault, State.raise_faults, State.raise_firstFault,
    State.recordFault_congr (s := s) (by simp) (by simp) (by simp)]

/-- A FAILED lane that does not go DOWN (R22). -/
theorem OutcomesOf.counted {s : State} {st : Fin 4 → LaneState} {k : Fin 4} (hf : (st k).failed = true)
    (hn : st k ≠ .done) (hd : s.goesDown st k = false) : OutcomesOf s st [k] (s.countFailure k) := by
  have after : s.healthAfter st k = { s.health.get k with count := s.failures k } := by
    simp [State.healthAfter, hf, hn, hd]
  obtain ⟨flags, ports⟩ := s.countFailure_flags k
  rw [State.countFailure_eq] at flags ports ⊢
  refine ⟨fun j => ?_, ?_, ports, ?_, fun j _ => rfl, ?_, rfl⟩
  · simp only [Quad.get_set, List.mem_singleton]
    split
    · next hj => rw [hj, after]
    · rfl
  · simpa [State.outcomeFlags, hf, hd] using flags
  · simp [hd]
  · simp [hd]

/-- A FAILED lane that goes DOWN, which is an occurrence of LANE_DOWN (R22, R171). -/
theorem OutcomesOf.tookDown {s : State} {st : Fin 4 → LaneState} {k : Fin 4} (hf : (st k).failed = true)
    (hn : st k ≠ .done) (hd : s.goesDown st k = true) :
    OutcomesOf s st [k] ((s.countFailure k).takeDown k (s.failures k)) := by
  have after : s.healthAfter st k = { count := s.failures k, down := true } := by
    simp [State.healthAfter, hf, hn, hd]
  obtain ⟨flags, ports⟩ := s.countFailure_flags k
  obtain ⟨flags', ports'⟩ := (s.countFailure k).takeDown_flags k (s.failures k)
  have counted := s.countFailure_eq k
  generalize s.countFailure k = c at *
  have faults : c.faults = s.faults := by rw [counted]
  have first : c.firstFault = s.firstFault := by rw [counted]
  have record : c.recordFault .laneDown = s.recordFault .laneDown :=
    State.recordFault_congr faults first (by rw [counted]) .laneDown
  refine ⟨fun j => ?_, ?_, ports.trans ports', ?_, fun j hj => ?_, ?_, ?_⟩
  · rw [State.takeDown_frame, counted]
    simp only [Quad.set_set, Quad.get_set, List.mem_singleton]
    split
    · next hj => rw [hj, after]
    · rfl
  · refine (flags.trans flags').congr fun x => ?_
    simp [State.outcomeFlags, hf, hd, faults]
  · simp [State.takeDown_faults, faults, hd]
  · rw [State.takeDown_faults, PerFault.get_set_ne _ _ hj, faults]
  · rw [State.takeDown_firstFault, faults, first, record]
    cases (s.faults.get .laneDown).pending <;> simp [hd]
  · rw [State.takeDown_frame, counted]

/-- One lane's outcome. -/
theorem OutcomesOf.single (s : State) (st : Fin 4 → LaneState) (k : Fin 4) :
    OutcomesOf s st [k] (s.laneOutcome k (st k)) := by
  obtain ⟨hst, h⟩ | ⟨hst, h⟩ | ⟨hst, h⟩ := s.laneOutcome_cases k (st k)
  · have calm : (st k).failed = false ∧ st k ≠ .done := by
      obtain hst | hst | hst := hst <;> rw [hst] <;> decide
    have kept : s.healthAfter st k = s.health.get k := by simp [State.healthAfter, calm]
    have same := OutcomesOf.calm (s := s) calm.1
    rw [kept, Quad.set_get] at same
    rwa [h]
  · have calm : (st k).failed = false := by rw [hst]; decide
    have reported : s.healthAfter st k = { s.health.get k with count := 0 } := by simp [State.healthAfter, hst]
    have same := OutcomesOf.calm (s := s) calm
    rwa [reported, ← h] at same
  · have failed : (st k).failed = true ∧ st k ≠ .done := by
      obtain hst | hst | hst := hst <;> rw [hst] <;> decide
    have down : s.goesDown st k = (!(s.health.get k).down && s.ram.laneDownCount ≤ s.failures k) := by
      simp [State.goesDown, failed]
    rw [h]
    split
    · next hd => exact .tookDown failed.1 failed.2 (down.trans hd)
    · next hd => exact .counted failed.1 failed.2 (down.trans (Bool.eq_false_iff.2 hd))

/-- The outcome of one more lane. -/
theorem OutcomesOf.append {s u v : State} {st : Fin 4 → LaneState} {l : List (Fin 4)} {k : Fin 4}
    (h : OutcomesOf s st l u) (hk : k ∉ l) (hv : OutcomesOf u st [k] v) : OutcomesOf s st (l ++ [k]) v := by
  obtain ⟨same, after⟩ := goesDown_congr (s := s) (u := u) (st := st) (k := k) (by simp [h.health, hk]) (by rw [h.frame])
  have laneDown := h.laneDown
  have flags := h.flags.trans hv.flags
  have vDown := hv.laneDown
  have vFirst := hv.firstFault
  simp only [List.any_cons, List.any_nil, Bool.or_false, same] at vDown vFirst
  refine ⟨fun j => ?_, ?_, h.ports.trans hv.ports, ?_, fun j hj => (hv.otherKinds j hj).trans (h.otherKinds j hj), ?_, ?_⟩
  · rw [hv.health, h.health]
    by_cases hj : j = k
    · simp [hj, after]
    · simp [hj]
  · refine flags.congr fun x => ?_
    simp only [List.mem_append, State.mem_outcomeFlags, laneDown, List.any_append, List.any_cons, List.any_nil,
      Bool.or_false, same, Bool.eq_false_iff, ne_eq, Bool.or_eq_true]
    tauto
  · rw [vDown, laneDown]
    simp only [List.any_append, List.any_cons, List.any_nil, Bool.or_false, List.filter_append, List.length_append,
      List.filter_cons, List.filter_nil, same, Bool.or_assoc]
    have none_down : l.any (s.goesDown st) = false → (l.filter (s.goesDown st)).length = 0 := by
      rw [List.any_eq_false, List.length_eq_zero_iff, List.filter_eq_nil_iff]
      exact id
    cases hl : l.any (s.goesDown st) <;> cases s.goesDown st k <;> simp [none_down, hl]
    omega
  · rw [vFirst, h.firstFault, laneDown]
    simp only [List.any_append, List.any_cons, List.any_nil, Bool.or_false]
    cases hl : l.any (s.goesDown st) with
    | true => cases (s.faults.get .laneDown).pending <;> simp
    | false =>
      have faults : u.faults = s.faults := PerFault.ext_get fun j => by
        by_cases hj : j = .laneDown
        · rw [hj, laneDown]
          simp [hl]
        · exact h.otherKinds j hj
      rw [State.recordFault_congr (s := s) faults (by rw [h.firstFault]; simp [hl]) (by rw [h.frame])]
      simp
  · rw [hv.frame, h.frame]

/-- The outcomes of the four lanes of an entry. -/
theorem State.laneOutcomes_spec (s : State) (e : Entry) :
    OutcomesOf s (fun k => (e.lanes.get k).state) fourLanes (s.laneOutcomes e) := by
  unfold State.laneOutcomes
  have distinct : fourLanes.Nodup := by decide
  generalize fourLanes = l at distinct
  induction l using List.reverseRecOn with
  | nil => exact .none s _
  | append_singleton l k ih =>
    rw [List.nodup_append] at distinct
    rw [List.foldl_append]
    exact (ih distinct.1).append (fun hk => distinct.2.2 k hk k (by simp) rfl) (.single _ _ k)

end Sys2Proof.Machine

namespace Sys2Proof.Machine

/-! ## Completion of grading (R32) -/

/-- The engine's take changes the table alone (R27, R28). -/
theorem State.engineTake_frame (s : State) : s.engineTake = { s with table := s.engineTake.table } := by
  unfold State.engineTake
  split
  · rfl
  · split <;> rfl

/-- The graded entry is the oldest unplaced one exactly when every older one is PLACED (R7, R32). -/
theorem State.oldestUnplaced_tag {s : State} {older younger : List Entry} {e : Entry}
    (hs : s.table = older ++ e :: younger) (ht : ∀ x ∈ older ++ younger, x.tag ≠ e.tag) (he : e.isPlaced = false) :
    decide (s.oldestUnplaced.map Entry.tag = some e.tag) = older.all Entry.isPlaced := by
  cases ho : older.all Entry.isPlaced with
  | true => simp [State.oldestUnplaced_split hs (List.all_eq_true.1 ho) he]
  | false =>
    obtain ⟨x, hx, hxp⟩ := List.all_eq_false.1 ho
    obtain ⟨y, hy⟩ := Option.isSome_iff_exists.1
      (List.find?_isSome (p := fun x : Entry => !x.isPlaced) |>.2 ⟨x, hx, by simpa using hxp⟩)
    have oldest : s.oldestUnplaced = some y := by
      unfold State.oldestUnplaced
      rw [hs, List.find?_append, hy]
      rfl
    simpa [oldest] using ht y (by simp [List.mem_of_find?_eq_some hy])

/-- GRADING_COMPLETE is the completion of the entry in GRADING (R27, R32). -/
theorem exec_gradingComplete {s : State} (hp : s.porstLow = false) (ht : TableInv s) {older younger : List Entry}
    {e : Entry} (hs : s.table = older ++ e :: younger) (hg : e.state = .grading) :
    (∀ x ∈ older ++ younger, x.state ≠ .grading) ∧ exec .gradingComplete s = .next (s.complete e) := by
  obtain ⟨-, -, -, hgrading, -⟩ := id ht
  rw [hs, List.pairwise_append, List.pairwise_cons] at hgrading
  have alone : ∀ x ∈ older ++ younger, x.state ≠ .grading := fun x hx hxg =>
    (List.mem_append.1 hx).elim (fun h => hgrading.2.2 x h e (by simp) ⟨hxg, hg⟩) fun h => hgrading.2.1.1 x h ⟨hg, hxg⟩
  have found : s.table.find? (fun x => decide (x.state = .grading)) = some e := by
    rw [hs]
    exact find_split (fun x hx => by simpa using alone x (by simp [hx])) (by simp [hg])
  refine ⟨alone, ?_⟩
  show execGradingComplete s = _
  rw [execGradingComplete, powered_next hp, found]

/-- Distinct tags, read off at an entry (R9). -/
theorem tags_split {before after : List Entry} {x : Entry} (h : ((before ++ x :: after).map Entry.tag).Nodup) :
    ∀ y ∈ before ++ after, y.tag ≠ x.tag := by
  rw [List.map_append, List.map_cons, List.nodup_middle, List.nodup_cons, ← List.map_append] at h
  exact fun y hy htag => h.1 (htag ▸ List.mem_map_of_mem hy)

/-- Settles O13: the result is written, the lanes' outcomes follow, HEAD_READY is set, and the engine takes its next. -/
theorem gradingCompletesWhole : Obligations.GradingCompletesWhole := by
  intro s older younger e hp ht hs hg m result graded failed count goesDown
  obtain ⟨alone, hexec⟩ := exec_gradingComplete hp ht hs hg
  have others := ht.tags hs
  let written : State := { s with table := older ++ graded :: younger }
  have spec := written.laneOutcomes_spec graded
  have hcomplete : s.complete e =
      ((written.laneOutcomes graded).raiseIf (older.all Entry.isPlaced) .headReady).engineTake := by
    have table : (written.laneOutcomes graded).table = older ++ graded :: younger := by rw [spec.frame]
    have replaced : s.setEntry graded = written := State.setEntry_split hs rfl others
    rw [← State.oldestUnplaced_tag table others rfl, ← replaced]
    rfl
  rw [hcomplete] at hexec
  generalize written.laneOutcomes graded = u at spec hexec
  have raised := u.raiseIf_raised (older.all Entry.isPlaced) .headReady
  have same := u.raiseIf_same (older.all Entry.isPlaced) .headReady
  have frame : u.raiseIf (older.all Entry.isPlaced) .headReady = { written with
      health := u.health, faults := u.faults, firstFault := u.firstFault
      ports := (u.raiseIf (older.all Entry.isPlaced) .headReady).ports } := by
    rw [State.raiseIf_ports_eq, spec.frame]
  generalize u.raiseIf (older.all Entry.isPlaced) .headReady = v at raised same frame hexec
  have table : v.table = older ++ graded :: younger := by rw [frame]
  have free : v.engineBusy = false := by
    rw [Bool.eq_false_iff, ne_eq, engineBusy_iff, table]
    rintro ⟨x, hx, hxg⟩
    rw [List.mem_append, List.mem_cons] at hx
    obtain hx | rfl | hx := hx
    · exact alone x (by simp [hx]) hxg
    · cases hxg
    · exact alone x (by simp [hx]) hxg
  have take_none (hnone : ∀ x ∈ older ++ younger, x.state ≠ .ready) : v.engineTake.table = older ++ graded :: younger := by
    rw [State.engineTake_none (.inr ?_), table]
    intro x hx
    rw [table, List.mem_append, List.mem_cons] at hx
    obtain hx | rfl | hx := hx
    · exact hnone x (by simp [hx])
    · nofun
    · exact hnone x (by simp [hx])
  have take_some (before : List Entry) (x : Entry) (after : List Entry)
      (hsplit : older ++ graded :: younger = before ++ x :: after) (hx : x.state = .ready)
      (hb : ∀ y ∈ before, y.state ≠ .ready) : v.engineTake.table = before ++ { x with state := .grading } :: after := by
    have tags : ∀ y ∈ before ++ after, y.tag ≠ x.tag := by
      refine tags_split ?_
      rw [← hsplit, List.map_append, List.map_cons]
      have distinct := List.pairwise_map.2 ht.2.1
      rwa [hs, List.map_append, List.map_cons] at distinct
    rw [State.engineTake_some free (table.trans hsplit) hb hx tags]
  have taken := v.engineTake_frame
  generalize v.engineTake = t at hexec take_none take_some taken
  have health : t.health = u.health := by rw [taken, frame]
  have faults : t.faults = u.faults := by rw [taken, frame]
  have first : t.firstFault = u.firstFault := by rw [taken, frame]
  have ports : t.ports = v.ports := by rw [taken]
  have hfirst : t.firstFault = if fourLanes.any goesDown && !(s.faults.get .laneDown).pending then
      s.recordFault .laneDown else s.firstFault := first.trans spec.firstFault
  have hflags : FlagsRaised s t (written.outcomeFlags (fun k => (graded.lanes.get k).state) fourLanes ++
      if older.all Entry.isPlaced then [(.stacker, 0)] else []) := by
    intro p n hn
    rw [State.port, ports]
    exact spec.flags.trans raised p n hn
  have hports : SamePortsButFlags s t := by
    intro p
    rw [State.port, ports]
    exact spec.ports.trans same p
  refine ⟨t, hexec, take_none, take_some, fun k => ?_, ?_, ?_, fun j hj => ?_, fun h => ?_, fun hd hpend => ⟨fun h => ?_, fun h => ?_⟩,
    ?_, ?_⟩
  · rw [health, spec.health, if_pos (by revert k; decide)]
    rfl
  · refine hflags.congr fun x => ?_
    refine List.perm_append_comm.mem_iff.trans ?_
    simp only [State.outcomeFlags, List.mem_append, or_assoc]
    exact Iff.rfl
  · rw [faults, spec.laneDown]
    rfl
  · rw [faults, spec.otherKinds j hj]
  · rw [hfirst, if_neg]
    obtain h | h := h <;> simp [h]
  · rw [hfirst, if_pos (by simp [hd, hpend]), State.recordFault, if_neg (by simpa using h)]
    rfl
  · rw [hfirst, if_pos (by simp [hd, hpend]), State.recordFault, if_pos (by simpa using h)]
    rfl
  · exact hports
  · rw [taken, frame]
    simp [written, SameReceiver, SameIntake, SameOrders, SameSettings, SamePins]

end Sys2Proof.Machine

namespace Sys2Proof.Machine

/-! # The measurement arithmetic (chapter 2) -/

/-! ## The moisture of a sample (R35 to R37) -/

/-- The converted value is the floor of the quotient (R35). -/
theorem converted_floor (raw low span : Nat) :
    converted raw low span * 4096 ≤ (raw - low) * span ∧
      (raw - low) * span < (converted raw low span + 1) * 4096 := by
  simp only [converted]
  generalize (raw - low) * span = product
  omega

theorem conversion_le {raw low span : Nat} (hraw : raw ≤ 4095) (hspan : span ≤ 1023) :
    (raw - low) * span ≤ 4189185 :=
  Nat.mul_le_mul (show raw - low ≤ 4095 by omega) hspan

/-- The temperature correction is the floor of the rounded quotient (R36). -/
theorem correction_floor (temp : Int) (tempco : Nat) :
    correction temp tempco * 16 ≤ (temp - 20) * tempco + 8 ∧
      (temp - 20) * tempco + 8 < (correction temp tempco + 1) * 16 := by
  simp only [correction]
  generalize (temp - 20) * (tempco : Int) = product
  omega

theorem correction_product_bounds {temp : Int} {tempco : Nat} (hco : tempco ≤ 63) (hlow : -20 ≤ temp)
    (hhigh : temp ≤ 120) : -2520 ≤ (temp - 20) * (tempco : Int) ∧ (temp - 20) * (tempco : Int) ≤ 6300 := by
  constructor <;> nlinarith

/-- The correction is negative only where the sheet is colder than 20 °C, the coefficient having no sign (R36). -/
theorem correction_neg_iff (temp : Int) (tempco : Nat) :
    correction temp tempco < 0 ↔ temp < 20 ∧ 8 < -((temp - 20) * (tempco : Int)) := by
  have cold : (temp - 20) * (tempco : Int) < 0 → temp < 20 := fun h => by
    by_contra hwarm
    exact absurd h (not_lt.2 (mul_nonneg (by omega) (by omega)))
  have floor := correction_floor temp tempco
  generalize (temp - 20) * (tempco : Int) = product at cold floor
  omega

theorem corrected_le (m : Nat) (c : Int) : corrected m c ≤ 400 := by
  simp only [corrected]
  omega

/-- Settles O14: each quotient is a floor, and the ranges follow from those of the products. -/
theorem moistureOfASample : Obligations.MoistureOfASample := by
  intro r k x raw low span tempco product hraw _ hspan hco hcold hwarm m c v
  have hm : m * 4096 ≤ (raw - low) * span ∧ (raw - low) * span < (m + 1) * 4096 := converted_floor raw low span
  have hc : c * 16 ≤ product + 8 ∧ product + 8 < (c + 1) * 16 := correction_floor x.temp tempco
  have hproduct : -2520 ≤ product ∧ product ≤ 6300 := correction_product_bounds hco hcold hwarm
  have hconv : (raw - low) * span ≤ 4189185 := conversion_le hraw hspan
  have hv : v = min 400 (max 0 ((m : Int) - c)) := by
    simp only [v, moisture, corrected]
    exact Int.toNat_of_nonneg (by omega)
  refine ⟨⟨hm.1, hm.2, hconv, by omega, fun h => ?_, fun h => ?_, fun h0 h1 => ?_⟩,
    ⟨hc.1, hc.2, hproduct.1, hproduct.2, by omega, by omega, by omega, by omega, correction_neg_iff _ _,
      fun h => ?_, fun h => ?_, fun h => ?_⟩, by omega⟩
  · simp [m, converted, Nat.sub_eq_zero_of_le h]
  · simp [m, converted, h]
  · rw [h0, h1] at hm
    omega
  · simp [c, correction, h]
  · simp [c, correction, h]
  · simp only [c, correction, h]
    omega

/-! ## The largest of a list -/

/-- The largest value is one of the values, or 0 of none, and no value exceeds it. -/
theorem largest_spec (vs : List Nat) :
    (vs = [] → largest vs = 0) ∧ (vs ≠ [] → largest vs ∈ vs) ∧ ∀ y ∈ vs, y ≤ largest vs := by
  obtain ⟨hmem, hmax⟩ := List.max?_eq_some_iff.1 (List.max?_cons' (x := 0) (xs := vs))
  change largest vs ∈ 0 :: vs at hmem
  change ∀ b ∈ 0 :: vs, b ≤ largest vs at hmax
  refine ⟨fun h => by rw [h]; rfl, fun h => ?_, fun y hy => hmax y (List.mem_cons_of_mem _ hy)⟩
  obtain hzero | hmem := List.mem_cons.1 hmem
  · obtain ⟨y, hy⟩ := List.exists_mem_of_ne_nil vs h
    have hle : y ≤ largest vs := hmax y (List.mem_cons_of_mem _ hy)
    rwa [show largest vs = y by omega]
  · exact hmem

theorem le_largest {vs : List Nat} {y : Nat} (h : y ∈ vs) : y ≤ largest vs := (largest_spec vs).2.2 y h

theorem largest_mem {vs : List Nat} (h : vs ≠ []) : largest vs ∈ vs := (largest_spec vs).2.1 h

theorem largest_le {vs : List Nat} {b : Nat} (h : ∀ y ∈ vs, y ≤ b) : largest vs ≤ b := by
  by_cases hvs : vs = []
  · exact (largest_spec vs).1 hvs ▸ b.zero_le
  · exact h _ (largest_mem hvs)

theorem largest_map_mono {α : Type} {l : List α} {f g : α → Nat} (h : ∀ a ∈ l, f a ≤ g a) :
    largest (l.map f) ≤ largest (l.map g) := by
  refine largest_le (List.forall_mem_map.2 fun a ha => (h a ha).trans (le_largest (List.mem_map_of_mem ha)))

/-! ## The valid lanes, their zones, samples and defects (R34) -/

theorem mem_validLanes {ls : Quad Lane} {k : Fin 4} : k ∈ validLanes ls ↔ (ls.get k).state = .done := by
  simp [validLanes, Lane.valid]

theorem validLanes_length (ls : Quad Lane) : (validLanes ls).length ≤ 4 := List.length_filter_le _ _

/-- As many things from each valid lane at most are four times as many together. -/
theorem length_flatMap_validLanes {α : Type} (ls : Quad Lane) {f : Fin 4 → List α} {n : Nat}
    (h : ∀ k, (f k).length ≤ n) : ((validLanes ls).flatMap f).length ≤ 4 * n := by
  have hsum := List.sum_le_card_nsmul ((validLanes ls).map fun k => (f k).length) n
    (List.forall_mem_map.2 fun k _ => h k)
  rw [List.length_map, smul_eq_mul] at hsum
  rw [List.length_flatMap]
  exact hsum.trans (Nat.mul_le_mul_right n (validLanes_length ls))

/-- The zones of the valid lanes, each with its lane. -/
def validZones (ls : Quad Lane) : List (Fin 4 × Fin 8) :=
  (validLanes ls).flatMap fun k => eight.map fun z => (k, z)

theorem validZones_length (ls : Quad Lane) : (validZones ls).length ≤ 32 :=
  length_flatMap_validLanes (n := 8) ls fun _ => le_rfl

theorem validSamples_eq (ls : Quad Lane) :
    (validSamples ls).map Prod.snd = (validZones ls).filterMap fun kz => (ls.get kz.1).samples.get kz.2 := by
  simp [validSamples, validZones, List.map_flatMap, List.filterMap_flatMap, List.filterMap_map, Lane.filledSamples,
    Function.comp_def]

theorem validSamples_moisture (r : Settings) (ls : Quad Lane) :
    ((validSamples ls).map fun kx => moisture r kx.1 kx.2) = (validLanes ls).flatMap fun k =>
      eight.filterMap fun z => ((ls.get k).samples.get z).map (moisture r k) := by
  simp [validSamples, List.map_flatMap, Lane.filledSamples, List.map_filterMap, Function.comp_def]

theorem validSamples_length (ls : Quad Lane) : (validSamples ls).length ≤ 32 := by
  rw [← List.length_map Prod.snd, validSamples_eq]
  exact (List.length_filterMap_le _ _).trans (validZones_length ls)

theorem mem_validSamples {ls : Quad Lane} {kx : Fin 4 × Sample} (h : kx ∈ validSamples ls) :
    ∃ z, (ls.get kx.1).samples.get z = some kx.2 := by
  simp only [validSamples, List.mem_flatMap, List.mem_map, Lane.filledSamples, List.mem_filterMap] at h
  obtain ⟨k, -, x, ⟨z, -, hz⟩, rfl⟩ := h
  exact ⟨z, hz⟩

theorem mem_validDefects {ls : Quad Lane} {d : Defect} (h : d ∈ validDefects ls) : ∃ k, d ∈ (ls.get k).defects := by
  obtain ⟨k, -, hd⟩ := List.mem_flatMap.1 h
  exact ⟨k, hd⟩

/-! ## The mean and the wetspot (R38, R39) -/

/-- A sum of values none above a bound, rounded to their average, is not above the bound. -/
theorem sheetMean_le {vs : List Nat} {b : Nat} (h : ∀ v ∈ vs, v ≤ b) : sheetMean vs ≤ b := by
  have hsum := List.sum_le_card_nsmul vs b h
  rw [smul_eq_mul] at hsum
  obtain hn | hn := Nat.eq_zero_or_pos vs.length
  · simp [sheetMean, hn]
  · refine Nat.le_of_lt_succ (Nat.div_lt_of_lt_mul ?_)
    rw [Nat.mul_succ]
    omega

theorem sheetMean_le_largest (vs : List Nat) : sheetMean vs ≤ largest vs := sheetMean_le fun _ => le_largest

/-- The mean is the floor of the rounded quotient (R38). -/
theorem sheetMean_floor {vs : List Nat} (h : vs ≠ []) :
    sheetMean vs * vs.length ≤ vs.sum + vs.length / 2 ∧
      vs.sum + vs.length / 2 < (sheetMean vs + 1) * vs.length :=
  ⟨Nat.div_mul_le_self _ _, by
    rw [mul_comm]
    exact Nat.lt_mul_div_succ _ (List.length_pos_of_ne_nil h)⟩

theorem moisture_le (r : Settings) (k : Fin 4) (x : Sample) : moisture r k x ≤ 400 := corrected_le _ _

/-- Settles O15: the mean and the wetspot are the rounded average and the largest of one list of values up to 400. -/
theorem sheetMeanAndWetspot : Obligations.SheetMeanAndWetspot := by
  intro r ls done values m
  have hvalues : values = (validSamples ls).map fun kx => moisture r kx.1 kx.2 := (validSamples_moisture r ls).symm
  have hn : m.n = values.length := by
    rw [hvalues, List.length_map]
    rfl
  have hmean : m.mean = sheetMean values := by
    rw [hvalues]
    rfl
  have hwet : m.wetspot = largest values := by
    rw [hvalues]
    rfl
  have hle : ∀ v ∈ values, v ≤ 400 := by
    rw [hvalues]
    exact List.forall_mem_map.2 fun kx _ => moisture_le r kx.1 kx.2
  have hlen : values.length ≤ 32 := by
    rw [hvalues, List.length_map]
    exact validSamples_length ls
  have hsum : values.sum ≤ values.length * 400 := List.sum_le_card_nsmul values 400 hle
  refine ⟨hn, fun hne => ?_⟩
  obtain ⟨hfloor, hceil⟩ := sheetMean_floor hne
  rw [hn, hmean, hwet]
  exact ⟨rfl, hfloor, hceil, by omega, sheetMean_le hle, largest_mem hne, fun _ => le_largest, largest_le hle,
    sheetMean_le_largest values⟩

/-! ## The scores (R43, R46) -/

/-- The score of a zone of a lane, over the defects that a test keeps. -/
def scoreAt (r : Settings) (ls : Quad Lane) (keep : Defect → Bool) (kz : Fin 4 × Fin 8) : Nat :=
  zoneScore r ((ls.get kz.1).defects.filter keep) kz.2

theorem zoneScores_eq (r : Settings) (ls : Quad Lane) (keep : Defect → Bool) :
    zoneScores r ls keep = (validZones ls).map (scoreAt r ls keep) := by
  simp [zoneScores, validZones, List.map_flatMap, Function.comp_def, scoreAt]

theorem scoreAt_eq (r : Settings) (ls : Quad Lane) (keep : Defect → Bool) (kz : Fin 4 × Fin 8) :
    scoreAt r ls keep kz =
      min 1023 (((ls.get kz.1).defects.filter fun d => d.zone = kz.2 && keep d).map (points r)).sum := by
  rw [scoreAt, zoneScore, List.filter_filter]

theorem scoreAt_le (r : Settings) (ls : Quad Lane) (keep : Defect → Bool) (kz : Fin 4 × Fin 8) :
    scoreAt r ls keep kz ≤ 1023 := min_le_left _ _

/-- Fewer defects that count score no more. -/
theorem scoreAt_mono (r : Settings) (ls : Quad Lane) {keep more : Defect → Bool} (h : ∀ d, keep d = true → more d = true)
    (kz : Fin 4 × Fin 8) : scoreAt r ls keep kz ≤ scoreAt r ls more kz := by
  have fewer := ((((ls.get kz.1).defects.monotone_filter_right h).filter fun d => d.zone = kz.2).map (points r))
  exact min_le_min_left _ (fewer.sum_le_sum fun _ _ => Nat.zero_le _)

theorem zoneScores_largest_le (r : Settings) (ls : Quad Lane) (keep : Defect → Bool) :
    largest (zoneScores r ls keep) ≤ 1023 := by
  rw [zoneScores_eq]
  exact largest_le (List.forall_mem_map.2 fun kz _ => scoreAt_le r ls keep kz)

theorem zoneScores_sum_le (r : Settings) (ls : Quad Lane) (keep : Defect → Bool) :
    (zoneScores r ls keep).sum ≤ 32736 := by
  rw [zoneScores_eq]
  have hsum := List.sum_le_card_nsmul ((validZones ls).map (scoreAt r ls keep)) 1023
    (List.forall_mem_map.2 fun kz _ => scoreAt_le r ls keep kz)
  rw [List.length_map, smul_eq_mul] at hsum
  have hlen := validZones_length ls
  omega

theorem zoneScores_mono (r : Settings) (ls : Quad Lane) {keep more : Defect → Bool}
    (h : ∀ d, keep d = true → more d = true) :
    largest (zoneScores r ls keep) ≤ largest (zoneScores r ls more) ∧
      (zoneScores r ls keep).sum ≤ (zoneScores r ls more).sum := by
  rw [zoneScores_eq, zoneScores_eq]
  exact ⟨largest_map_mono fun kz _ => scoreAt_mono r ls h kz, List.sum_le_sum fun kz _ => scoreAt_mono r ls h kz⟩

/-! ## The measurement set (Table 2-6) -/

theorem departure_eq (nominal thickness : Nat) : departure nominal thickness = ((thickness : Int) - nominal).natAbs := by
  simp only [departure]
  omega

/-- NOMINAL_THICK lies in 500..6000 (Table 10-2). -/
theorem SettingsInv.nominalThick {s : State} (h : SettingsInv s) :
    500 ≤ s.ram.nominalThick ∧ s.ram.nominalThick ≤ 6000 := by
  have range : (decide (500 ≤ s.ram.nominalThick) && decide (s.ram.nominalThick ≤ 6000)) = true := h .nominalThick
  simpa using range

/-- R41: a thickness of 13 bits departs by at most 8191 − 500 from a nominal one in its range. -/
theorem departure_le {nominal thickness : Nat} (hlow : 500 ≤ nominal) (hhigh : nominal ≤ 6000)
    (hthick : thickness ≤ 8191) : departure nominal thickness ≤ 7691 := by
  simp only [departure]
  omega

theorem openCount_le (r : Settings) {ls : Quad Lane} (h : ∀ k, (ls.get k).defects.length ≤ 24) :
    openCount r (validDefects ls) ≤ 96 :=
  (List.length_filter_le _ _).trans (length_flatMap_validLanes ls h)

theorem longestSplit_le (r : Settings) {ds : List Defect} {b : Nat} (h : ∀ d ∈ ds, d.size ≤ b) :
    longestSplit r ds ≤ b :=
  largest_le (List.forall_mem_map.2 fun _ hd => h _ (List.mem_of_mem_filter hd))

/-- The figures lie in their ranges. -/
theorem measure_bounds {s : State} {ls : Quad Lane} (hs : SettingsInv s)
    (hcount : ∀ k, (ls.get k).defects.length ≤ 24) (hsize : ∀ k, ∀ d ∈ (ls.get k).defects, d.size ≤ 1023)
    (hthick : ∀ k z x, (ls.get k).samples.get z = some x → x.thickness ≤ 8191) :
    let m := measure s.ram ls
    m.n ≤ 32 ∧ m.mean ≤ m.wetspot ∧ m.wetspot ≤ 400 ∧ m.thickDev ≤ 7691 ∧ m.maxZ ≤ 1023 ∧ m.total ≤ 32736 ∧
      m.openCount ≤ 96 ∧ m.split ≤ 1023 ∧ m.f ≤ 4 := by
  obtain ⟨hlow, hhigh⟩ := hs.nominalThick
  refine ⟨validSamples_length ls, sheetMean_le_largest _,
    largest_le (List.forall_mem_map.2 fun kx _ => moisture_le _ _ _),
    largest_le (List.forall_mem_map.2 fun kx hkx => ?_), zoneScores_largest_le _ _ _, zoneScores_sum_le _ _ _,
    openCount_le _ hcount, longestSplit_le _ fun d hd => ?_, Nat.sub_le _ _⟩
  · obtain ⟨z, hz⟩ := mem_validSamples hkx
    exact departure_le hlow hhigh (hthick _ z _ hz)
  · obtain ⟨k, hk⟩ := mem_validDefects hd
    exact hsize k d hk

/-- R46: the patch-adjusted figures leave out the defects of the open types. -/
theorem measure_patched_le (r : Settings) (ls : Quad Lane) :
    (measure r ls).maxZ' ≤ (measure r ls).maxZ ∧ (measure r ls).total' ≤ (measure r ls).total :=
  zoneScores_mono r ls fun _ _ => rfl

/-- R40: with no sample the unknown figures are 0. -/
theorem measure_of_no_sample {r : Settings} {ls : Quad Lane} (h : (measure r ls).n = 0) :
    (measure r ls).mean = 0 ∧ (measure r ls).wetspot = 0 ∧ (measure r ls).thickDev = 0 := by
  have hnone : validSamples ls = [] := List.length_eq_zero_iff.1 h
  simp [measure, hnone, sheetMean, largest]

/-- R3: the types that a patch covers. -/
theorem openType_eq (t : DefectType) :
    openType t = (decide (t = .looseKnot) || decide (t = .hole) || decide (t = .split)) := by
  cases t <;> rfl

theorem missingSet_get (ls : Quad Lane) (k : Fin 4) : (missingSet ls).get k = !(ls.get k).valid := by
  rw [missingSet, Quad.get_of]

/-- A final lane is missing exactly when it is not DONE (R34). -/
theorem missingSet_get_iff {ls : Quad Lane} {k : Fin 4} (h : (ls.get k).state.final = true) :
    (missingSet ls).get k = true ↔ ∃ cause, (ls.get k).state = .missing cause := by
  rw [missingSet_get, Lane.valid]
  cases hst : (ls.get k).state with
  | waiting => simp [hst, LaneState.final] at h
  | opened => simp [hst, LaneState.final] at h
  | done => simp
  | missing cause => simp

/-- R48: every lane is valid or in the missing-lane set. -/
theorem missing_count (ls : Quad Lane) :
    4 - (validLanes ls).length = (fourLanes.filter (missingSet ls).get).length := by
  have hsplit := fourLanes.length_eq_length_filter_add fun k => (ls.get k).valid
  simp only [← missingSet_get] at hsplit
  exact Nat.sub_eq_of_eq_add' hsplit

/-- The figures depend on the lanes through the valid ones alone. -/
theorem measure_congr {ls ls' : Quad Lane} (r : Settings)
    (hdone : ∀ k, (ls.get k).state = .done ↔ (ls'.get k).state = .done)
    (hsame : ∀ k, (ls.get k).state = .done → ls.get k = ls'.get k) : measure r ls = measure r ls' := by
  have hvalid (k : Fin 4) : (ls.get k).valid = (ls'.get k).valid := decide_eq_decide.2 (hdone k)
  have hlanes : validLanes ls = validLanes ls' := List.filter_congr fun k _ => hvalid k
  have hmissing : missingSet ls = missingSet ls' := Quad.ext_get fun k => by rw [missingSet_get, missingSet_get, hvalid]
  have hflat {α : Type} (f : Fin 4 → Lane → List α) :
      ((validLanes ls).flatMap fun k => f k (ls.get k)) = (validLanes ls').flatMap fun k => f k (ls'.get k) := by
    rw [← hlanes]
    exact List.flatMap_congr fun k hk => by rw [hsame k (mem_validLanes.1 hk)]
  have hsamples : validSamples ls = validSamples ls' := hflat fun k l => l.filledSamples.map fun x => (k, x)
  have hdefects : validDefects ls = validDefects ls' := hflat fun _ l => l.defects
  have hscores (keep : Defect → Bool) : zoneScores r ls keep = zoneScores r ls' keep :=
    hflat fun _ l => eight.map (zoneScore r (l.defects.filter keep))
  simp only [measure, hsamples, hdefects, hscores, hmissing, hlanes]

/-- Settles O16: the ranges, the figures written out over the DONE lanes, and their independence of the others. -/
theorem measurementSetIsOfTheDoneLanes : Obligations.MeasurementSetIsOfTheDoneLanes := by
  refine ⟨?_, ?_, fun r _ _ => measure_congr r⟩
  · intro s ls hs hls m
    obtain ⟨hn, hmean, hwet, hthick, hmaxZ, htotal, hopen, hsplit, hf⟩ := measure_bounds hs (fun k => (hls k).1)
      (fun k => (hls k).2.1) (fun k => (hls k).2.2)
    obtain ⟨hmaxZ', htotal'⟩ := measure_patched_le s.ram ls
    exact ⟨hn, hmean, hwet, hthick, hmaxZ, htotal, hopen, hmaxZ', htotal', hsplit, hf, measure_of_no_sample⟩
  · intro r ls done zones samples defects p patched score largestOf m
    have hsamples : samples = (validSamples ls).map Prod.snd := (validSamples_eq ls).symm
    have hpatched : patched = fun d => openType d.type := funext fun d => (openType_eq d.type).symm
    have hscore (keep : Defect → Bool) : zones.map (score keep) = zoneScores r ls keep := by
      rw [zoneScores_eq]
      exact List.map_congr_left fun kz _ => (scoreAt_eq r ls keep kz).symm
    have hdev : (samples.map fun x => ((x.thickness : Int) - r.nominalThick).natAbs) =
        (validSamples ls).map fun kx => departure r.nominalThick kx.2.thickness := by
      simp only [hsamples, List.map_map, Function.comp_def, departure_eq]
    refine ⟨by rw [hsamples, List.length_map]; rfl, ?_, ?_, ?_, ?_, ?_, ?_, ?_, fun hfinal => ⟨fun k => ?_, ?_⟩⟩
    · rw [hdev]
      exact largest_spec _
    · rw [hscore]
      exact largest_spec _
    · rw [hscore]
      rfl
    · rw [hpatched]
      rfl
    · rw [hscore, hpatched]
      exact largest_spec _
    · rw [hscore, hpatched]
      rfl
    · have hsplits : (defects.filter fun d => d.type = .split && 0 < p d) =
          (validDefects ls).filter fun d => d.type = .split ∧ 0 < points r d :=
        List.filter_congr fun d _ => (Bool.decide_and _ _).symm
      rw [hsplits]
      exact largest_spec _
    · exact missingSet_get_iff (hfinal k)
    · exact missing_count ls

end Sys2Proof.Machine

namespace Sys2Proof.Machine

/-! # The grade decision (chapter 3) -/

/-! ## The as-is grade (R50, R51) -/

/-- The limits of a grade (R50). -/
theorem meets_iff {r : Settings} {m : Measurement} {g : Grade} :
    meets r m g = true ↔ m.maxZ ≤ r.limitZone.get g ∧ m.total ≤ r.limitTotal.get g ∧
      m.openCount ≤ r.limitOpen.get g ∧ m.n ≠ 0 ∧ m.thickDev ≤ r.limitThick.get g := by
  simp only [meets, Bool.and_eq_true, decide_eq_true_eq, and_assoc]

theorem mem_grades (g : Grade) : g ∈ grades := by cases g <;> decide

/-- The grades stand best first (R49). -/
theorem grades_ordered : grades.Pairwise fun g h => g.code < h.code := by decide

/-- A search of grades in order answers the best one that passes. -/
theorem find_eq_some_iff_best {p : Grade → Bool} {g : Grade} {gs : List Grade}
    (hgs : gs.Pairwise fun g h => g.code < h.code) :
    gs.find? p = some g ↔ g ∈ gs ∧ p g = true ∧ ∀ h ∈ gs, h.code < g.code → p h = false := by
  induction gs with
  | nil => simp
  | cons x gs ih =>
    obtain ⟨hx, hrest⟩ := List.pairwise_cons.1 hgs
    cases hp : p x with
    | true =>
      rw [List.find?_cons_of_pos hp, Option.some_inj]
      constructor
      · rintro rfl
        exact ⟨List.mem_cons_self, hp,
          List.forall_mem_cons.2 ⟨fun hlt => absurd hlt (lt_irrefl _), fun h hh hlt => absurd hlt (hx h hh).not_gt⟩⟩
      · rintro ⟨hg, -, hfirst⟩
        rcases List.mem_cons.1 hg with rfl | hg
        · rfl
        · exact absurd (hfirst x List.mem_cons_self (hx g hg)) (by simp [hp])
    | false =>
      have hne (hg : p g = true) : g ≠ x := by
        rintro rfl
        exact absurd hg (by simp [hp])
      rw [List.find?_cons_of_neg (by simp [hp]), ih hrest]
      simp only [List.forall_mem_cons, hp, implies_true, true_and]
      exact ⟨fun ⟨hg, hrest⟩ => ⟨List.mem_cons_of_mem x hg, hrest⟩,
        fun ⟨hg, hpg, hfirst⟩ => ⟨List.mem_of_ne_of_mem (hne hpg) hg, hpg, hfirst⟩⟩

/-- The as-is grade is met, and no better one is (R51). -/
theorem asIsGrade_eq_some_iff {r : Settings} {m : Measurement} {g : Grade} :
    asIsGrade r m = some g ↔ meets r m g = true ∧ ∀ h : Grade, h.code < g.code → ¬ meets r m h = true := by
  simp only [asIsGrade, find_eq_some_iff_best grades_ordered, mem_grades, true_and, forall_const, Bool.not_eq_true]

theorem asIsGrade_eq_none_iff {r : Settings} {m : Measurement} :
    asIsGrade r m = none ↔ ∀ g, ¬ meets r m g = true := by
  simp only [asIsGrade, List.find?_eq_none, mem_grades, forall_const]

/-- With no sample no grade is met (R50, R53). -/
theorem asIsGrade_of_no_sample {r : Settings} {m : Measurement} (hn : m.n = 0) : asIsGrade r m = none := by
  refine asIsGrade_eq_none_iff.2 fun g hmet => ?_
  obtain ⟨-, -, -, hsamples, -⟩ := meets_iff.1 hmet
  exact hsamples hn

/-! ## The disposition (R52 to R59) -/

theorem patchable_iff {r : Settings} {m : Measurement} :
    patchable r m = true ↔ 1 ≤ m.openCount ∧ m.openCount ≤ r.patchMaxOpen ∧ m.split ≤ r.patchSplitMax ∧
      m.maxZ' ≤ r.limitZone.get r.patchTarget ∧ m.total' ≤ r.limitTotal.get r.patchTarget ∧
      m.thickDev ≤ r.limitThick.get r.patchTarget := by
  simp only [patchable, Bool.and_eq_true, decide_eq_true_eq, and_assoc]

theorem Grade.worseOf_eq (g h : Grade) : g.worseOf h = if g.code < h.code then h else g := by
  cases g <;> cases h <;> rfl

section
variable {r : Settings} {m : Measurement}

/-- Step 1 (R53). -/
theorem disposition_of_no_sample (hn : m.n = 0) : disposition r m = .bin .reinspect := if_pos hn

/-- Step 2 (R54). -/
theorem disposition_of_wet (hn : m.n ≠ 0) (hwet : r.meanLimit < m.mean ∨ r.wetspotLimit < m.wetspot) :
    disposition r m = .bin .redry := by
  rw [disposition, if_neg hn, if_pos hwet]

/-- Step 3 (R55). -/
theorem disposition_of_inspected (hn : m.n ≠ 0) (hwet : ¬ (r.meanLimit < m.mean ∨ r.wetspotLimit < m.wetspot))
    (hf : m.f ≠ 0) (hinspect : r.missingLanePolicy = .whole ∨ r.maxMissing < m.f) :
    disposition r m = .bin .reinspect := by
  rw [disposition, if_neg hn, if_neg hwet, if_pos ⟨Nat.pos_of_ne_zero hf, hinspect⟩]

/-- Step 4 (R56). -/
theorem disposition_of_partial (hn : m.n ≠ 0) (hwet : ¬ (r.meanLimit < m.mean ∨ r.wetspotLimit < m.wetspot))
    (hf : m.f ≠ 0) (hinspect : ¬ (r.missingLanePolicy = .whole ∨ r.maxMissing < m.f)) :
    disposition r m = gradeOrReject ((asIsGrade r m).map fun g => g.worseOf r.partialCap) := by
  rw [disposition, if_neg hn, if_neg hwet, if_neg (hinspect ·.2),
    if_pos (Nat.one_le_iff_ne_zero.2 hf)]

/-- Step 5 (R57). -/
theorem disposition_of_full_scan (hn : m.n ≠ 0) (hwet : ¬ (r.meanLimit < m.mean ∨ r.wetspotLimit < m.wetspot))
    (hf : m.f = 0) : disposition r m = fullScanDisposition r m := by
  have hlanes : ¬ 1 ≤ m.f := by omega
  rw [disposition, if_neg hn, if_neg hwet, if_neg (hlanes ·.1), if_neg hlanes]

/-- A full scan as good as the patch target keeps its grade (R57). -/
theorem fullScanDisposition_of_code_le {g : Grade} (hg : asIsGrade r m = some g)
    (hle : g.code ≤ r.patchTarget.code) : fullScanDisposition r m = .bin (.grade g) := by
  simp [fullScanDisposition, hg, hle, gradeOrReject]

/-- Any other full scan is patched where it can be (R57 to R59). -/
theorem fullScanDisposition_of_not_code_le (hworse : ∀ g, asIsGrade r m = some g → r.patchTarget.code < g.code) :
    (patchable r m = true → fullScanDisposition r m = .bin .patch) ∧
      (¬ patchable r m = true → fullScanDisposition r m = gradeOrReject (asIsGrade r m)) := by
  have hany : ¬ (asIsGrade r m).any (fun g => g.code ≤ r.patchTarget.code) = true := by
    rw [Option.any_eq_true]
    rintro ⟨g, hg, hle⟩
    exact absurd (of_decide_eq_true hle) (hworse g hg).not_ge
  have hbranch : fullScanDisposition r m = if patchable r m then .bin .patch else gradeOrReject (asIsGrade r m) :=
    if_neg hany
  exact ⟨fun hyes => hbranch.trans (if_pos hyes), fun hno => hbranch.trans (if_neg hno)⟩

end

/-- Settles O17: the order of the grades, and the five steps one by one. -/
theorem gradeDecisionBySteps : Obligations.GradeDecisionBySteps := by
  intro r m met patchableSheet wet inspect asIs d
  have hmet (g : Grade) : met g ↔ meets r m g = true := meets_iff.symm
  have hpatch : patchableSheet ↔ patchable r m = true := patchable_iff.symm
  simp only [hmet, hpatch]
  refine ⟨fun _ => asIsGrade_eq_some_iff, asIsGrade_eq_none_iff,
    fun hn => ⟨disposition_of_no_sample hn, asIsGrade_of_no_sample hn⟩, disposition_of_wet, disposition_of_inspected,
    fun hn hwet hf hinspect => ?partialScan, fun hn hwet hf => ?fullScan⟩
  case partialScan =>
    have hd : d = gradeOrReject (asIs.map fun g => g.worseOf r.partialCap) := disposition_of_partial hn hwet hf hinspect
    refine ⟨fun hnone => by rw [hd, hnone]; rfl, fun g hg => ?_⟩
    rw [hd, hg, ← Grade.worseOf_eq]
    rfl
  case fullScan =>
    have hd : d = fullScanDisposition r m := disposition_of_full_scan hn hwet hf
    refine ⟨fun g hg hle => hd.trans (fullScanDisposition_of_code_le hg hle), fun g hg hlt => ?_, fun hnone => ?_⟩
    · obtain ⟨hyes, hno⟩ := fullScanDisposition_of_not_code_le (r := r) (m := m) fun h hh => by
        rwa [← Option.some_inj.1 (hg.symm.trans hh)]
      exact ⟨fun hp => hd.trans (hyes hp), fun hp => (hd.trans (hno hp)).trans (congrArg gradeOrReject hg)⟩
    · obtain ⟨hyes, hno⟩ := fullScanDisposition_of_not_code_le (r := r) (m := m) fun h hh =>
        nomatch hnone.symm.trans hh
      exact ⟨fun hp => hd.trans (hyes hp), fun hp => (hd.trans (hno hp)).trans (congrArg gradeOrReject hnone)⟩

end Sys2Proof.Machine

namespace Sys2Proof.Machine

/-! # What every step keeps of the bins and the orders -/

/-! ## The sheets on their way to a bin (R84) -/

/-- The placed classes of the sheets on their way to a bin, oldest first. -/
def comingTo (l : List Entry) (b : Fin 8) : List (Option BinClass) :=
  (l.filter fun e => e.placement = some b).map fun e => e.result.bind SheetRecord.placedClass

theorem placedTo_eq_length (l : List Entry) (b : Fin 8) : placedTo l b = (comingTo l b).length := by
  simp [placedTo, comingTo]

theorem comingTo_append (l m : List Entry) (b : Fin 8) : comingTo (l ++ m) b = comingTo l b ++ comingTo m b := by
  simp [comingTo]

theorem comingTo_cons_unplaced {e : Entry} (h : e.placement = none) (l : List Entry) (b : Fin 8) :
    comingTo (e :: l) b = comingTo l b := by
  simp [comingTo, h]

theorem comingTo_cons_placed {e : Entry} {r : SheetRecord} {c : Fin 8} (h : e.state = .placed r c) (l : List Entry)
    (b : Fin 8) : comingTo (e :: l) b = if c = b then r.placedClass :: comingTo l b else comingTo l b := by
  have hp : e.placement = some c := by simp [Entry.placement, h]
  have hr : e.result = some r := by simp [Entry.result, h]
  by_cases hb : c = b <;> simp [comingTo, hp, hb, hr]

theorem Entry.placement_none_iff (e : Entry) : e.placement = none ↔ e.isPlaced = false := by
  unfold Entry.placement Entry.isPlaced
  cases e.state <;> simp

/-- Entries that are unplaced before and after a change, the others as they were: the same sheets are on their way. -/
theorem comingTo_map {l : List Entry} {f : Entry → Entry}
    (h : ∀ x ∈ l, f x = x ∨ (x.placement = none ∧ (f x).placement = none)) (b : Fin 8) :
    comingTo (l.map f) b = comingTo l b := by
  induction l with
  | nil => rfl
  | cons x l ih =>
    have rest := ih fun y hy => h y (by simp [hy])
    rw [List.map_cons, ← List.singleton_append, comingTo_append, rest]
    obtain hx | ⟨h1, h2⟩ := h x (by simp)
    · rw [hx, ← comingTo_append, List.singleton_append]
    · rw [comingTo_cons_unplaced h2, comingTo_cons_unplaced h1]
      rfl

/-- Unplaced entries that leave the table take no sheet on its way with them. -/
theorem comingTo_filter {l : List Entry} {f : Entry → Bool} (h : ∀ x ∈ l, f x = false → x.placement = none) (b : Fin 8) :
    comingTo (l.filter f) b = comingTo l b := by
  induction l with
  | nil => rfl
  | cons x l ih =>
    have rest := ih fun y hy => h y (by simp [hy])
    cases hx : f x with
    | false => rw [List.filter_cons_of_neg (by simp [hx]), rest, comingTo_cons_unplaced (h x (by simp) hx)]
    | true =>
      rw [List.filter_cons_of_pos hx, ← List.singleton_append, comingTo_append, rest, ← comingTo_append]
      rfl

/-! ## A change that leaves the bins and the orders alone -/

/-- No two entries carry one tag (R9). -/
def TagsDiffer (l : List Entry) : Prop := l.Pairwise fun x y => x.tag ≠ y.tag

theorem TagsDiffer.others {older younger : List Entry} {e : Entry} (h : TagsDiffer (older ++ e :: younger)) :
    ∀ x ∈ older ++ younger, x.tag ≠ e.tag := by
  unfold TagsDiffer at h
  rw [List.pairwise_append, List.pairwise_cons] at h
  obtain ⟨-, ⟨hy, -⟩, ho⟩ := h
  intro x hx
  rcases List.mem_append.1 hx with hx | hx
  · exact ho x hx e (by simp)
  · exact fun he => hy x hx he.symm

theorem TagsDiffer.eq_of_tag {l : List Entry} (h : TagsDiffer l) {x y : Entry} (hx : x ∈ l) (hy : y ∈ l)
    (ht : x.tag = y.tag) : x = y := by
  obtain ⟨older, younger, rfl⟩ := List.append_of_mem hy
  by_contra hn
  refine h.others x ?_ ht
  simp only [List.mem_append, List.mem_cons] at hx ⊢
  tauto

/-- The tags still differ, and the same sheets are on their way to each bin. -/
def SameComing (l m : List Entry) : Prop := TagsDiffer l → TagsDiffer m ∧ ∀ b, comingTo m b = comingTo l b

theorem SameComing.refl (l : List Entry) : SameComing l l := fun h => ⟨h, fun _ => rfl⟩

theorem SameComing.trans {l m n : List Entry} (h : SameComing l m) (k : SameComing m n) : SameComing l n := by
  intro ht
  obtain ⟨hm, hl⟩ := h ht
  obtain ⟨hn, hk⟩ := k hm
  exact ⟨hn, fun b => (hk b).trans (hl b)⟩

/-- An unplaced entry replaced by one that carries its tag and is unplaced too. -/
theorem SameComing.setEntry (s : State) {e e' : Entry} (he : e ∈ s.table) (ht : e'.tag = e.tag)
    (hp : e.placement = none) (hp' : e'.placement = none) : SameComing s.table (s.setEntry e').table := by
  intro h
  refine ⟨?_, comingTo_map fun x hx => ?_⟩
  · refine List.pairwise_map.2 (h.imp ?_)
    intro x y hn
    have tag (z : Entry) : (if z.tag = e'.tag then e' else z).tag = z.tag := by split <;> simp_all
    rwa [tag, tag]
  · split
    next hx' => exact .inr ⟨by rwa [h.eq_of_tag hx he (hx'.trans ht)], hp'⟩
    next => exact .inl rfl

theorem SameComing.filterTag {l : List Entry} {e : Entry} (he : e ∈ l) (hp : e.placement = none) :
    SameComing l (l.filter fun x => x.tag ≠ e.tag) := by
  intro h
  refine ⟨h.filter _, comingTo_filter fun x hx hf => ?_⟩
  rwa [h.eq_of_tag hx he (by simpa using hf)]

theorem SameComing.append {l : List Entry} {e : Entry} (ht : ∀ x ∈ l, x.tag ≠ e.tag) (hp : e.placement = none) :
    SameComing l (l ++ [e]) := by
  refine fun h => ⟨List.pairwise_append.2 ⟨h, List.pairwise_singleton _ _, ?_⟩, fun b => ?_⟩
  · intro x hx y hy
    rw [List.mem_singleton.1 hy]
    exact ht x hx
  · rw [comingTo_append, comingTo_cons_unplaced hp]
    exact List.append_nil _

theorem SameComing.tick (l : List Entry) : SameComing l (l.map Entry.tick) := by
  refine fun h => ⟨List.pairwise_map.2 (h.imp (by simp)), comingTo_map fun x _ => ?_⟩
  rcases x.tick_cases with ⟨n, hn, ht⟩ | ⟨-, ht⟩
  · exact .inr ⟨by simp [Entry.placement, hn], by simp [Entry.placement, ht]⟩
  · exact .inl ht

/-- Nothing of the bins and the orders changed, and the same sheets are on their way to each bin. -/
structure WorkStands (s t : State) : Prop where
  bins : t.bins = s.bins
  ram : t.ram = s.ram
  queue : t.queue = s.queue
  active : t.active = s.active
  finished : t.finished = s.finished
  coming : SameComing s.table t.table

theorem WorkStands.refl (s : State) : WorkStands s s := ⟨rfl, rfl, rfl, rfl, rfl, .refl _⟩

theorem WorkStands.trans {s t u : State} (h : WorkStands s t) (k : WorkStands t u) : WorkStands s u :=
  ⟨k.bins.trans h.bins, k.ram.trans h.ram, k.queue.trans h.queue, k.active.trans h.active,
    k.finished.trans h.finished, h.coming.trans k.coming⟩

/-- `WorkStands.trans` with the later part first. -/
theorem WorkStands.after {s t u : State} (k : WorkStands t u) (h : WorkStands s t) : WorkStands s u := h.trans k

/-- A state that differs only where neither the bins nor the orders look. -/
theorem WorkStands.aside {s t : State} (h1 : t.bins = s.bins) (h2 : t.ram = s.ram) (h3 : t.queue = s.queue)
    (h4 : t.active = s.active) (h5 : t.finished = s.finished) (h6 : t.table = s.table) : WorkStands s t :=
  ⟨h1, h2, h3, h4, h5, h6 ▸ .refl _⟩

theorem WorkStands.ofSheets {s t : State} (h : SheetsOnly s t) (hc : SameComing s.table t.table) : WorkStands s t := by
  unfold SheetsOnly at h
  refine ⟨?_, ?_, ?_, ?_, ?_, hc⟩ <;> rw [h]

theorem WorkStands.setPort (s : State) (p : Port) (x : PortState) : WorkStands s (s.setPort p x) :=
  .aside rfl rfl rfl rfl rfl rfl

theorem WorkStands.raise (s : State) (e : Event) : WorkStands s (s.raise e) := by
  apply WorkStands.aside <;> simp

theorem WorkStands.raiseIf (s : State) (c : Bool) (e : Event) : WorkStands s (s.raiseIf c e) := by
  apply WorkStands.aside <;> simp

theorem WorkStands.announce (s t : State) : WorkStands t (s.announce t) := by
  apply WorkStands.aside <;> simp

theorem WorkStands.faultOccurs (s : State) (k : FaultKind) : WorkStands s (s.faultOccurs k) := by
  apply WorkStands.aside <;> simp

theorem WorkStands.faultEnds (s : State) (k : FaultKind) : WorkStands s (s.faultEnds k) := by
  apply WorkStands.aside <;> simp

/-! ## The scan link and the engine -/

theorem placement_none_of_ready {e : Entry} (h : e.state = .ready) : e.placement = none := by simp [Entry.placement, h]

theorem SameComing.engineTake (s : State) : SameComing s.table s.engineTake.table := by
  unfold State.engineTake
  split
  · exact .refl _
  · split
    next e he =>
      have ready : e.state = .ready := by simpa using List.find?_some he
      exact .setEntry s (List.mem_of_find?_eq_some he) rfl (placement_none_of_ready ready) rfl
    next => exact .refl _

theorem letGo_table (s : State) (tag : Byte) : (s.letGo tag).table = s.table := by rw [State.letGo_eq]

theorem SameComing.becomeReady (s : State) {e e' : Entry} (he : e ∈ s.table) (ht : e'.tag = e.tag)
    (hp : e.placement = none) : SameComing s.table (s.becomeReady e').table := by
  refine .trans (.setEntry s (e' := { e' with state := .ready }) he ht hp rfl) (.trans ?_ (.engineTake _))
  rw [letGo_table]
  exact .refl _

theorem SameComing.removeEntry (s : State) {e : Entry} (he : e ∈ s.table) (hp : e.placement = none) :
    SameComing s.table (s.removeEntry e).table := by
  refine .trans (.filterTag he hp) (.trans ?_ (.engineTake _))
  rw [letGo_table]
  exact .refl _

theorem Entry.placement_none_of_scanning {e : Entry} (h : e.isScanning = true) : e.placement = none :=
  (Entry.placement_none_iff e).2 (Entry.not_placed_of_scanning h)

theorem SameComing.deliver (s : State) {e : Entry} (he : e ∈ s.table) (hs : e.isScanning = true) (k : Fin 4)
    (m : LaneMessage) : SameComing s.table (s.deliver e k m).table := by
  have unplaced := Entry.placement_none_of_scanning hs
  have stored (e' : Entry) (ht : e'.tag = e.tag) (hp : e'.placement = none) :
      SameComing s.table (if e'.allFinal then s.becomeReady e' else s.setEntry e').table := by
    split
    · exact .becomeReady s he ht unplaced
    · exact .setEntry s he ht unplaced hp
  unfold State.deliver
  split
  · exact stored _ rfl unplaced
  · exact stored _ rfl unplaced
  all_goals exact .refl _

theorem SameComing.openEntry (s : State) {tag : Byte} (hn : ∀ x ∈ s.table, x.tag ≠ tag) (k : Fin 4) (m : LaneMessage) :
    SameComing s.table (s.openEntry tag k m).table := by
  have opened : SameComing s.table (s.table ++ [s.newEntry tag]) := .append hn rfl
  have mem : s.newEntry tag ∈ s.table ++ [s.newEntry tag] := by simp
  unfold State.openEntry
  dsimp only
  rw [State.noteOpening_eq]
  split
  · exact opened.trans (.becomeReady { s with table := _, sheetCounter := _, intake := _, resuming := _, retired := _ } mem rfl rfl)
  · exact opened.trans (.deliver { s with table := _, sheetCounter := _, intake := _, resuming := _, retired := _ } mem rfl k m)

theorem WorkStands.syncCheck (s : State) (n : Nat) : WorkStands s (s.syncCheck n) := by
  unfold State.syncCheck
  split
  · exact .faultOccurs s _
  · exact .refl s

theorem WorkStands.countMissed (s : State) : WorkStands s s.countMissed := by
  have ahead : WorkStands s s.missAhead := .after (.syncCheck _ _) (.aside rfl rfl rfl rfl rfl rfl)
  unfold State.countMissed
  split
  next e hlast =>
    split
    · exact ahead
    next hp =>
      have unplaced : e.placement = none := (Entry.placement_none_iff e).2 (by simpa using hp)
      exact .after (.syncCheck _ _)
        (.ofSheets (.setEntry _ _) (.setEntry s (List.mem_of_getLast? hlast) rfl unplaced unplaced))
  next => exact ahead

theorem WorkStands.missSheet (s : State) (tag : Byte) : WorkStands s (s.missSheet tag) := by
  unfold State.missSheet
  exact .after (.countMissed _) (.trans (.after (.raise _ .missed) (.aside rfl rfl rfl rfl rfl rfl))
    (.aside rfl rfl rfl rfl rfl rfl))

theorem WorkStands.route (s : State) (tag : Byte) (k : Fin 4) (m : LaneMessage) : WorkStands s (s.route tag k m) := by
  have stray : WorkStands s s.countStray := .aside rfl rfl rfl rfl rfl rfl
  unfold State.route
  split
  next e he =>
    split
    next hs => exact .ofSheets (.deliver s e k m) (.deliver s (List.mem_of_find?_eq_some he) hs k m)
    next => exact stray
  next hn =>
    split
    · exact stray
    · split
      · exact .refl s
      · split
        · exact .ofSheets (.openEntry s tag k m) (.openEntry s (State.entryOf_none hn) k m)
        · exact .missSheet s tag

theorem WorkStands.message (s : State) (tag : Byte) (k : Fin 4) (m : LaneMessage) : WorkStands s (s.message tag k m) :=
  .after (.announce _ _) (.route s tag k m)

theorem WorkStands.expireWindow {s : State} {tag : Byte} {e : Entry} (he : s.entryOf tag = some e)
    (hs : e.isScanning = true) : WorkStands s (s.expireWindow e) :=
  .ofSheets (.becomeReady s _)
    (.becomeReady s (List.mem_of_find?_eq_some he) rfl (Entry.placement_none_of_scanning hs))

theorem WorkStands.laneOutcome (s : State) (k : Fin 4) (st : LaneState) : WorkStands s (s.laneOutcome k st) := by
  rcases s.laneOutcome_cases k st with ⟨-, h⟩ | ⟨-, h⟩ | ⟨-, h⟩ <;> rw [h]
  · exact .refl s
  · exact .aside rfl rfl rfl rfl rfl rfl
  · have counted : WorkStands s (s.countFailure k) := .after (.raise _ .laneFaulted) (.aside rfl rfl rfl rfl rfl rfl)
    split
    · exact counted.trans (.after (.faultOccurs _ _) (.after (.raise _ .laneDown) (.aside rfl rfl rfl rfl rfl rfl)))
    · exact counted

theorem WorkStands.laneOutcomes (s : State) (e : Entry) : WorkStands s (s.laneOutcomes e) := by
  unfold State.laneOutcomes
  generalize fourLanes = l
  induction l generalizing s with
  | nil => exact .refl s
  | cons k l ih => exact (WorkStands.laneOutcome s k _).trans (ih _)

theorem WorkStands.engineTake (s : State) : WorkStands s s.engineTake := .ofSheets (.engineTake s) (.engineTake s)

theorem WorkStands.complete {s : State} {e : Entry} (he : s.table.find? (fun e => e.state = .grading) = some e) :
    WorkStands s (s.complete e) := by
  have grading : e.state = .grading := by simpa using List.find?_some he
  unfold State.complete
  dsimp only
  refine .after (.engineTake _) (.after (.raiseIf _ _ _) (.after (.laneOutcomes _ _) (.ofSheets (.setEntry s _) ?_)))
  exact .setEntry s (List.mem_of_find?_eq_some he) rfl (by simp [Entry.placement, grading]) rfl

theorem WorkStands.returnLane (s : State) (k : Fin 4) : WorkStands s (s.returnLane k) := by
  unfold State.returnLane
  dsimp only
  split
  · exact .aside rfl rfl rfl rfl rfl rfl
  · exact .after (.faultEnds _ _) (.aside rfl rfl rfl rfl rfl rfl)

theorem WorkStands.clearFaults (s : State) (clear : Word) : WorkStands s (s.clearFaults clear) := by
  apply WorkStands.aside <;> simp [State.clearFaults]

theorem WorkStands.endOperation (s : State) : WorkStands s { s with op := .idle, bus := .idle } :=
  .aside rfl rfl rfl rfl rfl rfl

theorem WorkStands.endStore (s : State) (result : StoreResult) : WorkStands s (s.endStore result) := by
  unfold State.endStore
  refine .after (.raise _ .settingsDone) (.after (.endOperation _) ?_)
  split
  · exact .after (.faultEnds _ _) (.aside rfl rfl rfl rfl rfl rfl)
  · exact .faultOccurs _ _

end Sys2Proof.Machine

namespace Sys2Proof.Machine

/-! ## The invariant of one bin (R69, R70, R84, R91) -/

/-- What the invariant of the bins asks of one bin's record, with the placed classes of the sheets on their way to it and
the settings. -/
structure BinFits (r : Bin) (b : Fin 8) (coming : List (Option BinClass)) (ram : Settings) : Prop where
  reserved : r.reserved ≤ r.count
  load : r.count + r.inbound ≤ r.capacity
  inbound : r.inbound = coming.length
  range : 1 ≤ r.capacity ∧ r.capacity ≤ 300 ∧ r.margin ≤ 50
  offline : r.mode = .offline → r.count = 0 ∧ r.inbound = 0 ∧ r.reserved = 0 ∧ r.cls = ram.binClass.get b ∧
    r.capacity = ram.binCapacity.get b ∧ r.margin = ram.binMargin.get b
  stack : ∀ x ∈ r.stack, x.placedClass = some r.cls
  coming : ∀ k ∈ coming, k = some r.cls

theorem binInv_iff (s : State) :
    BinInv s ↔ ∀ b, BinFits (s.bins.get b) b (comingTo s.table b) s.ram := by
  have classes (b : Fin 8) : (∀ k ∈ comingTo s.table b, k = some (s.bins.get b).cls) ↔
      ∀ e ∈ s.table, e.placement = some b → e.result.bind SheetRecord.placedClass = some (s.bins.get b).cls := by
    simp only [comingTo, List.forall_mem_map, List.mem_filter, decide_eq_true_eq, and_imp]
  constructor
  · intro h b
    obtain ⟨h1, h2, h3, h4, h5, h6, h7⟩ := h b
    exact ⟨h1, h2, h3.trans (placedTo_eq_length _ _), h4, h5, h6, (classes b).2 h7⟩
  · intro h b
    obtain ⟨h1, h2, h3, h4, h5, h6, h7⟩ := h b
    exact ⟨h1, h2, h3.trans (placedTo_eq_length _ _).symm, h4, h5, h6, (classes b).1 h7⟩

/-- The bins under another table with the same sheets on their way. -/
theorem BinInv.congr {s t : State} (h : BinInv s) (h1 : t.bins = s.bins) (h2 : t.ram = s.ram)
    (h3 : ∀ b, comingTo t.table b = comingTo s.table b) : BinInv t := by
  rw [binInv_iff] at h ⊢
  simpa [h1, h2, h3] using h

/-- Other reserved numbers, none above its count, and none in an OFFLINE bin. -/
theorem BinFits.setReserved {r : Bin} {b : Fin 8} {coming : List (Option BinClass)} {ram : Settings}
    (h : BinFits r b coming ram) {n : Nat} (hn : n ≤ r.count) : BinFits { r with reserved := n } b coming ram := by
  refine ⟨hn, h.load, h.inbound, h.range, fun ho => ?_, h.stack, h.coming⟩
  obtain ⟨h1, h2, -, h4⟩ := h.offline ho
  have : n = 0 := Nat.le_zero.1 (hn.trans (Nat.le_of_eq h1))
  exact ⟨h1, h2, this, h4⟩

/-- A stack that lost records. -/
theorem BinFits.setStack {r : Bin} {b : Fin 8} {coming : List (Option BinClass)} {ram : Settings}
    (h : BinFits r b coming ram) {l : List SheetRecord} {n : Nat} (hl : l.Sublist r.stack) (hn : n ≤ l.length) :
    BinFits { r with stack := l, reserved := n } b coming ram := by
  have shorter : l.length ≤ r.count := hl.length_le
  refine ⟨hn, (Nat.add_le_add_right shorter _).trans h.load, h.inbound, h.range, fun ho => ?_,
    fun x hx => h.stack x (hl.subset hx), h.coming⟩
  obtain ⟨h1, h2, -, h4⟩ := h.offline ho
  have none_left : l.length = 0 := Nat.le_zero.1 (shorter.trans (Nat.le_of_eq h1))
  exact ⟨none_left, h2, Nat.le_zero.1 (hn.trans (Nat.le_of_eq none_left)), h4⟩

/-- The settings of a bin are in their ranges (Table 10-2). -/
theorem Settings.fits.bin {r : Settings} (h : r.fits) (b : Fin 8) :
    1 ≤ r.binCapacity.get b ∧ r.binCapacity.get b ≤ 300 ∧ r.binMargin.get b ≤ 50 := by
  have capacity := h (.binCapacity b)
  have margin := h (.binMargin b)
  simp only [Setting.domain, Domain.holds, Settings.get, Bool.and_eq_true] at capacity margin
  exact ⟨of_decide_eq_true capacity.1, of_decide_eq_true capacity.2, of_decide_eq_true margin.2⟩

/-- An empty OFFLINE bin that takes its settings (R70). -/
theorem BinFits.ofSettings {r : Bin} {b : Fin 8} {coming : List (Option BinClass)} {ram : Settings} (hr : ram.fits)
    (hc : r.count = 0) (hi : r.inbound = 0) (hv : r.reserved = 0) (hl : coming = []) :
    BinFits { r with
      mode := .offline, cls := ram.binClass.get b, capacity := ram.binCapacity.get b, margin := ram.binMargin.get b }
      b coming ram := by
  have empty : r.stack = [] := List.length_eq_zero_iff.1 hc
  have fits := hr.bin b
  refine ⟨by simp [hv], ?_, by simp [hi, hl], fits, fun _ => ⟨hc, hi, hv, rfl, rfl, rfl⟩, by simp [empty], by simp [hl]⟩
  simp only [Bin.count, empty, hi]
  exact Nat.zero_le _

/-- A record follows new settings while its bin is OFFLINE (R70, R189). -/
theorem BinFits.follow {r : Bin} {b : Fin 8} {coming : List (Option BinClass)} {ram ram' : Settings}
    (h : BinFits r b coming ram) (hr : ram'.fits) : BinFits (r.follow ram' b) b coming ram' := by
  unfold Bin.follow
  split
  next ho =>
    obtain ⟨h1, h2, h3, -⟩ := h.offline ho
    have none_coming : coming = [] := List.length_eq_zero_iff.1 (h.inbound.symm.trans h2)
    have taken := BinFits.ofSettings (r := r) (b := b) hr h1 h2 h3 none_coming
    rwa [← ho] at taken
  next ho => exact ⟨h.reserved, h.load, h.inbound, h.range, fun h => absurd h ho, h.stack, h.coming⟩

@[simp] theorem Bin.follow_reserved (r : Bin) (ram : Settings) (b : Fin 8) : (r.follow ram b).reserved = r.reserved := by
  unfold Bin.follow
  split <;> rfl

/-! ## The invariant of the orders (R91, R101, R109, R113) -/

/-- What the invariant of the orders asks but for the reserved numbers. -/
structure OrdersFit (queue : List Order) (active : List Active) (finished : List Finished) : Prop where
  size : queue.length ≤ 8
  remakes : queue.Pairwise fun x y => y.cls = .remake → x.cls = .remake
  numbers : (queue.map Order.number ++ active.map Active.number).Nodup
  slots : active.Pairwise fun x y => x.slot ≠ y.slot
  recipes : ∀ o ∈ queue, recipeSize o.plies.length
  fits : ∀ a ∈ active, a.fits
  listed : finished.length ≤ 4

theorem orderInv_iff (s : State) : OrderInv s ↔
    OrdersFit s.queue s.active s.finished ∧ ∀ b, (s.bins.get b).reserved = plannedOn s.active b := by
  constructor
  · rintro ⟨h1, h2, h3, h4, h5, h6, h7, h8⟩
    exact ⟨⟨h1, h2, h3, h4, h5, h6, h7⟩, h8⟩
  · rintro ⟨⟨h1, h2, h3, h4, h5, h6, h7⟩, h8⟩
    exact ⟨h1, h2, h3, h4, h5, h6, h7, h8⟩

theorem OrderInv.congr {s t : State} (h : OrderInv s) (h1 : t.queue = s.queue) (h2 : t.active = s.active)
    (h3 : t.finished = s.finished) (h4 : ∀ b, (t.bins.get b).reserved = (s.bins.get b).reserved) : OrderInv t := by
  rw [orderInv_iff] at h ⊢
  simpa [h1, h2, h3, h4] using h

/-- The invariants of the bins and of the orders go over from one state to another, and with them what that rests on: the
tags of the table differ, and the settings are of their ranges. -/
structure WorkKept (s t : State) : Prop where
  tags : TagsDiffer s.table → TagsDiffer t.table
  ram : s.ram.fits → t.ram.fits
  bins : TagsDiffer s.table → s.ram.fits → BinInv s → BinInv t
  orders : OrderInv s → OrderInv t

theorem WorkKept.refl (s : State) : WorkKept s s := ⟨id, id, fun _ _ => id, id⟩

theorem WorkKept.trans {s t u : State} (h : WorkKept s t) (k : WorkKept t u) : WorkKept s u :=
  ⟨k.tags ∘ h.tags, k.ram ∘ h.ram, fun ht hr hb => k.bins (h.tags ht) (h.ram hr) (h.bins ht hr hb), k.orders ∘ h.orders⟩

/-- `WorkKept.trans` with the later part first. -/
theorem WorkKept.after {s t u : State} (k : WorkKept t u) (h : WorkKept s t) : WorkKept s u := h.trans k

/-- What leaves the bins and the orders alone keeps their invariants. -/
theorem WorkKept.stands {s t : State} (h : WorkStands s t) : WorkKept s t := by
  obtain ⟨h1, h2, h3, h4, h5, h6⟩ := h
  refine ⟨fun ht => (h6 ht).1, fun hr => by rwa [h2], fun ht _ hb => hb.congr h1 h2 (h6 ht).2, fun ho => ?_⟩
  exact ho.congr h3 h4 h5 fun b => by rw [h1]

/-- What one of the scheduler's operations keeps: the table and the settings stand. -/
theorem WorkKept.ofOrders {s t : State} (h1 : t.table = s.table) (h2 : t.ram = s.ram) (hb : BinInv s → BinInv t)
    (ho : OrderInv s → OrderInv t) : WorkKept s t :=
  ⟨fun h => by rwa [h1], fun h => by rwa [h2], fun _ _ => hb, ho⟩

/-- A change of one bin's record that leaves its reserved number. -/
theorem OrderInv.setBin {s t : State} (h : OrderInv s) (b : Fin 8) {r : Bin} (hb : t.bins = s.bins.set b r)
    (hr : r.reserved = (s.bins.get b).reserved) (h1 : t.queue = s.queue) (h2 : t.active = s.active)
    (h3 : t.finished = s.finished) : OrderInv t := by
  refine h.congr h1 h2 h3 fun c => ?_
  rw [hb, Oct.get_set]
  split
  next hc => rw [hc, hr]
  next => rfl

/-! ## Settings and bin states (R70, R73, R189) -/

theorem WorkKept.install (s : State) {r : Settings} (hr : s.ram.fits → r.fits) : WorkKept s (s.install r) := by
  refine ⟨id, hr, fun _ hf h => ?_, fun h => ?_⟩
  · rw [binInv_iff] at h ⊢
    intro b
    simp only [State.install, Oct.get_of]
    exact (h b).follow (hr hf)
  · exact h.congr rfl rfl rfl fun b => by simp [State.install]

theorem WorkKept.changeBin {s : State} {b : Fin 8} {m : BinMode} (h : m = .offline →
    (s.bins.get b).count = 0 ∧ (s.bins.get b).inbound = 0 ∧ (s.bins.get b).reserved = 0) :
    WorkKept s (s.changeBin b m).1 := by
  refine .after (.stands (.announce _ _)) (.after (.stands (.raise _ .binChanged)) ?_)
  refine ⟨id, id, fun _ hf hb => ?_, fun ho => ho.setBin b rfl (by simp) rfl rfl rfl⟩
  rw [binInv_iff] at hb ⊢
  intro c
  rw [State.setBin_bins, State.setBin_table, State.setBin_ram, Oct.get_set]
  split
  next hc =>
    subst hc
    by_cases hm : m = .offline
    · obtain ⟨h1, h2, h3⟩ := h hm
      have none_coming := List.length_eq_zero_iff.1 ((hb c).inbound.symm.trans h2)
      simpa [Bin.follow, hm] using BinFits.ofSettings (b := c) hf h1 h2 h3 none_coming
    · have old := hb c
      simp only [Bin.follow, hm, if_false]
      exact ⟨old.reserved, old.load, old.inbound, old.range, fun h => absurd h hm, old.stack, old.coming⟩
  next => exact hb c

theorem WorkKept.binState (s : State) (bin requested : Byte) : WorkKept s (s.binState bin requested).1 := by
  have on_line (b : Fin 8) {m : BinMode} (hm : m ≠ .offline) : WorkKept s (s.changeBin b m).1 :=
    .changeBin fun h => absurd h hm
  unfold State.binState
  split
  next b m _ _ =>
    split
    · exact .refl s
    · unfold State.decideBin
      dsimp only
      split
      · exact on_line b (by decide)
      · exact .refl s
      · exact on_line b (by decide)
      · exact .refl s
      · exact on_line b (by decide)
      · exact .refl s
      · exact .refl s
      all_goals
        split
        next hempty => exact .changeBin fun _ => hempty
        next => exact .refl s
  next => exact .refl s

theorem WorkKept.setSetting (s : State) (key : Word) (value : BitVec 32) : WorkKept s (s.setSetting key value).1 := by
  unfold State.setSetting
  split
  · exact .refl s
  · split
    · exact .refl s
    next x _ =>
      unfold State.writeSetting
      split
      · exact .refl s
      · split
        · exact .refl s
        next held clamped ht =>
          exact (WorkKept.install s fun h => h.set (Domain.take_holds x.domain_range ht)).trans
            (.stands (.announce _ _))

theorem WorkKept.endLoad (s : State) (read : LoadRead) : WorkKept s (s.endLoad read) := by
  refine .after (.stands (.announce _ _)) (.after (.stands (.raise _ .settingsDone))
    (.after (.stands (.endOperation _)) ?_))
  split
  next r hr =>
    refine (WorkKept.install s fun _ => loadedSettings_fits hr).trans ?_
    exact .stands (.after (.faultEnds _ _) (.aside rfl rfl rfl rfl rfl rfl))
  next =>
    refine (WorkKept.install s fun _ => Settings.defaults_fits).trans ?_
    exact .stands (.after (.faultOccurs _ _) (.aside rfl rfl rfl rfl rfl rfl))

/-! ## The stacker (R79, R80, R84, R85, R87, R88) -/

theorem WorkStands.gate {s : State} {e : Entry} (he : s.oldestUnplaced = some e) : WorkStands s (s.gate e) := by
  have unplaced : e.placement = none := (Entry.placement_none_iff e).2 (State.oldestUnplaced_some he).1
  have removed := SameComing.removeEntry (s.carryUnscanned e) (List.mem_of_find?_eq_some he) unplaced
  exact .ofSheets (.after (.removeEntry _ _) rfl) removed

/-- The walk's bin is OPEN and has room (R82, R83). -/
theorem walk_room {ram : Settings} {bins : Oct Bin} {k : BinClass} {b : Fin 8} (h : walk ram bins k = some b) :
    (bins.get b).mode = .opened ∧ (bins.get b).room = true := by
  have one {k : BinClass} (h : walkIn bins k = some b) : (bins.get b).mode = .opened ∧ (bins.get b).room = true := by
    have fits := (pickLargest_some.1 h).1
    simp only [Bool.and_eq_true, decide_eq_true_eq] at fits
    exact ⟨fits.1.1, fits.2⟩
  cases k with
  | grade g =>
    obtain ⟨g', -, hg⟩ := List.exists_of_findSome?_eq_some h
    exact one hg
  | patch | redry | reinspect => exact one h

theorem WorkKept.place {s : State} {e : Entry} {r : SheetRecord} {k : BinClass} {b : Fin 8}
    (he : s.oldestUnplaced = some e) (hw : walk s.ram s.bins k = some b) :
    WorkKept s (s.place e r b) := by
  obtain ⟨unplaced, older, younger, hl, -⟩ := State.oldestUnplaced_some he
  have hp : e.placement = none := (Entry.placement_none_iff e).2 unplaced
  obtain ⟨opened, room⟩ := walk_room hw
  generalize hk : { e with state := EntryState.placed (r.placeIn (s.bins.get b).cls) b, unscanned := 0 } = e'
  have htag : e'.tag = e.tag := by rw [← hk]
  have table (ht : TagsDiffer s.table) : (s.place e r b).table = older ++ e' :: younger := by
    rw [hl] at ht
    unfold State.place
    rw [hk, State.setEntry_split (s := s.carryUnscanned e) hl htag ht.others]
    rfl
  have bins : (s.place e r b).bins = s.bins.set b { s.bins.get b with inbound := (s.bins.get b).inbound + 1 } := rfl
  refine ⟨fun ht => ?_, id, fun ht _ hb => ?_, fun ho => ho.setBin b bins rfl rfl rfl rfl⟩
  · rw [table ht]
    rw [hl] at ht
    exact pairwise_replace ht (fun a _ hn => by rwa [htag]) fun a _ hn => by rwa [htag]
  · rw [binInv_iff] at hb ⊢
    intro c
    have old := hb c
    have placed : e'.state = .placed (r.placeIn (s.bins.get b).cls) b := by rw [← hk]
    rw [table ht, bins, comingTo_append, comingTo_cons_placed placed]
    rw [hl, comingTo_append, comingTo_cons_unplaced hp] at old
    by_cases hc : b = c
    · subst hc
      rw [if_pos rfl, Oct.get_set_self]
      refine ⟨old.reserved, ?_, ?_, old.range, fun h => ?_, old.stack, ?_⟩
      · simp only [Bin.room, decide_eq_true_eq] at room
        exact room
      · have := old.inbound
        simp only [List.length_append, List.length_cons] at this ⊢
        omega
      · exact absurd (opened.symm.trans h) (by decide)
      · intro x hx
        simp only [List.mem_append, List.mem_cons] at hx
        rcases hx with hx | rfl | hx
        · exact old.coming x (by simp [hx])
        · rfl
        · exact old.coming x (by simp [hx])
    · rw [if_neg hc, Oct.get_set_ne _ _ (Ne.symm hc)]
      exact old

theorem WorkKept.whereNext (s : State) : WorkKept s s.whereNext.1 := by
  unfold State.whereNext
  split
  · exact .stands (.aside rfl rfl rfl rfl rfl rfl)
  · split
    · exact .refl s
    next e he =>
      split
      next r hg =>
        unfold State.whereGraded
        split
        · exact .stands (.gate he)
        · split
          next b hw => exact .place he hw
          next => exact .stands (.gate he)
      all_goals exact .refl s

/-- The oldest PLACED entry, and the table split at it. -/
theorem State.oldestPlaced_some {s : State} {e : Entry} (h : s.oldestPlaced = some e) :
    ∃ older younger, s.table = older ++ e :: younger := by
  obtain ⟨-, older, younger, hl, -⟩ := find_split_iff h
  exact ⟨older, younger, hl⟩

/-- A bin to which a sheet is on its way is not OFFLINE. -/
theorem BinFits.not_offline {r : Bin} {b : Fin 8} {coming : List (Option BinClass)} {ram : Settings}
    (h : BinFits r b coming ram) (hc : coming ≠ []) : r.mode ≠ .offline := by
  intro ho
  obtain ⟨-, hi, -⟩ := h.offline ho
  exact hc (List.length_eq_zero_iff.1 (h.inbound.symm.trans hi))

/-- A PLACED sheet leaves the table for its bin, or for no bin: the bin's inbound falls, and its stack may take the
sheet's record (R85, R87). -/
theorem WorkKept.arrive {s u : State} {e : Entry} {r : SheetRecord} {b : Fin 8} {stack : List SheetRecord}
    (he : e ∈ s.table) (hp : e.state = .placed r b)
    (hstack : stack = (s.bins.get b).stack ∨ stack = r :: (s.bins.get b).stack) (hu : u.table = s.table)
    (hbins : u.bins = s.bins.set b { s.bins.get b with stack := stack, inbound := (s.bins.get b).inbound - 1 })
    (hram : u.ram = s.ram) (hqueue : u.queue = s.queue) (hactive : u.active = s.active)
    (hfinished : u.finished = s.finished) : WorkKept s (u.removeEntry e) := by
  obtain ⟨older, younger, hl⟩ := List.append_of_mem he
  have only := SheetsOnly.removeEntry u e
  unfold SheetsOnly at only
  have table (ht : TagsDiffer s.table) : TagsDiffer (u.removeEntry e).table ∧
      ∀ c, comingTo (u.removeEntry e).table c = comingTo (older ++ younger) c := by
    have taken := SameComing.engineTake ({ u with table := older ++ younger }.letGo e.tag)
    rw [letGo_table] at taken
    have left : u.removeEntry e = ({ u with table := older ++ younger }.letGo e.tag).engineTake := by
      rw [hl] at ht
      unfold State.removeEntry
      rw [hu, hl, filter_split ht.others]
    rw [left]
    refine taken (ht.sublist ?_)
    rw [hl]
    exact List.Sublist.append (List.Sublist.refl _) (List.sublist_cons_self _ _)
  have bins : (u.removeEntry e).bins = u.bins := by rw [only]
  have ram : (u.removeEntry e).ram = s.ram := by rw [only, ← hram]
  refine ⟨fun ht => (table ht).1, fun hr => by rwa [ram], fun ht _ hb => ?_, fun ho => ?_⟩
  · rw [binInv_iff] at hb ⊢
    intro c
    have old := hb c
    rw [(table ht).2, bins, hbins, ram, comingTo_append]
    rw [hl, comingTo_append, comingTo_cons_placed hp] at old
    by_cases hc : b = c
    · subst hc
      rw [if_pos rfl] at old
      rw [Oct.get_set_self]
      have here : r.placedClass = some (s.bins.get b).cls := old.coming _ (by simp)
      have inbound := old.inbound
      simp only [List.length_append, List.length_cons] at inbound
      have count : stack.length ≤ (s.bins.get b).count + 1 ∧ (s.bins.get b).count ≤ stack.length := by
        rcases hstack with rfl | rfl <;> simp [Bin.count]
      refine ⟨old.reserved.trans count.2, ?_, ?_, old.range, fun h => absurd h (old.not_offline (by simp)), ?_, ?_⟩
      · have load := old.load
        simp only [Bin.count] at load count ⊢
        omega
      · simp only [List.length_append]
        omega
      · rcases hstack with rfl | rfl
        · exact old.stack
        · intro x hx
          rcases List.mem_cons.1 hx with rfl | hx
          · exact here
          · exact old.stack x hx
      · intro x hx
        refine old.coming x ?_
        simp only [List.mem_append, List.mem_cons] at hx ⊢
        tauto
    · rw [if_neg hc] at old
      rw [Oct.get_set_ne _ _ (Ne.symm hc)]
      exact old
  · refine ho.setBin b (bins.trans hbins) rfl ?_ ?_ ?_
    · rw [only]; exact hqueue
    · rw [only]; exact hactive
    · rw [only]; exact hfinished

theorem WorkKept.divertPlaced {s : State} {e : Entry} {r : SheetRecord} {b : Fin 8} (he : s.oldestPlaced = some e)
    (hp : e.state = .placed r b) : WorkKept s (s.divertPlaced e b) :=
  .arrive (List.mem_of_find?_eq_some he) hp (.inl rfl) rfl rfl rfl rfl rfl rfl

theorem WorkStands.divertUnplaced {s : State} {e : Entry} (he : s.oldestUnplaced = some e) :
    WorkStands s (s.divertUnplaced e) := by
  have gone : WorkStands s ((s.carryUnscanned e).removeEntry e) := WorkStands.gate he
  unfold State.divertUnplaced
  dsimp only
  split
  · exact gone.trans (.aside rfl rfl rfl rfl rfl rfl)
  · exact gone

theorem WorkStands.outOfOrder (s : State) : WorkStands s s.outOfOrder.1 := .faultOccurs s _

theorem WorkKept.divert (s : State) (sheet : Word) : WorkKept s (s.divert sheet).1 := by
  have other : WorkKept s (s.divertOther sheet).1 := by
    unfold State.divertOther
    split
    next e he =>
      split
      · exact .after (.stands (.announce _ _)) (.stands (.divertUnplaced he))
      · exact .stands (.outOfOrder s)
    next => exact .stands (.outOfOrder s)
  unfold State.divert
  split
  · exact other
  next e he =>
    split
    next r b hp =>
      split
      · exact .after (.stands (.announce _ _)) (.divertPlaced he hp)
      · exact other
    all_goals exact other

/-! ## Resets (R197, R198) -/

theorem WorkKept.lineReset (s : State) : WorkKept s s.lineReset := by
  refine ⟨fun _ => List.Pairwise.nil, id, fun _ _ h => ?_, fun _ => ?_⟩
  · rw [binInv_iff] at h ⊢
    intro b
    obtain ⟨-, load, -, range, offline, stack, -⟩ := h b
    simp only [State.lineReset, Oct.get_of]
    refine ⟨Nat.zero_le _, (Nat.le_add_right _ _).trans load, rfl, range, fun ho => ?_, stack, by simp [comingTo]⟩
    obtain ⟨h1, -, -, h4⟩ := offline ho
    exact ⟨h1, rfl, rfl, h4⟩
  · exact (orderInv_iff _).2 ⟨⟨by simp [State.lineReset], .nil, by simp [State.lineReset], .nil, by simp [State.lineReset],
      by simp [State.lineReset], by simp [State.lineReset]⟩, fun b => by simp [State.lineReset, plannedOn]⟩

theorem WorkKept.powerOn (s : State) : WorkKept s s.powerOn := by
  refine ⟨fun _ => List.Pairwise.nil, fun _ => Settings.defaults_fits, fun _ _ _ => ?_, fun _ => ?_⟩
  · rw [binInv_iff]
    intro b
    have cleared := BinFits.ofSettings (r := Bin.reset Settings.defaults b) (b := b) Settings.defaults_fits rfl rfl rfl rfl
    rw [show s.powerOn.bins.get b = Bin.reset Settings.defaults b from Oct.get_of _ _]
    exact cleared
  · exact (orderInv_iff _).2 ⟨⟨Nat.zero_le _, .nil, .nil, .nil, by simp [State.powerOn, State.reset],
      by simp [State.powerOn, State.reset], Nat.zero_le _⟩,
      fun b => by simp [State.powerOn, State.reset, plannedOn, Bin.reset]⟩

theorem WorkKept.powerUp (s : State) : WorkKept s s.powerUp := by
  have begun : WorkKept s { s with porstLow := false, op := .loading, bus := .reading 0 [] } :=
    .stands (.aside rfl rfl rfl rfl rfl rfl)
  unfold State.powerUp
  dsimp only
  split
  · exact begun.trans (.lineReset _)
  · exact begun

end Sys2Proof.Machine

namespace Sys2Proof.Machine

/-! ## An active order's plies, split at its next ply (R99, R120) -/

/-- An active order that fits, its plies split at the next one: those before it are taken, and it and those after it are
not (R120). -/
structure Active.Drawn (a : Active) (done : List ActivePly) (p : ActivePly) (left : List ActivePly) : Prop where
  plies : a.plies = done ++ p :: left
  done_taken : ∀ q ∈ done, q.taken = true
  next_untaken : p.taken = false
  left_untaken : ∀ q ∈ left, q.taken = false
  size : recipeSize a.plies.length
  called : ∀ n, a.called = some n → n = done.length + 1 ∧ p.bin.isSome = true
  withdrawn : ∀ n, a.withdrawn = some n → n = done.length + 1 ∧ a.called = none
  closing : a.isClosing = true → a.called.isSome = true ∧ a.hold = none ∧ ∀ q ∈ left, q.bin = none
  working : a.isClosing = false → a.hold.isSome = true ∧ a.state = workedOut a.plies a.called

theorem numbered_append (n : Nat) (l m : List ActivePly) :
    numbered n (l ++ m) = numbered n l ++ numbered (n + l.length) m := by
  induction l generalizing n with
  | nil => rfl
  | cons p l ih =>
    rw [List.cons_append, numbered, numbered, ih, List.length_cons, List.cons_append, Nat.add_assoc, Nat.add_comm 1]

theorem numbered_snd {n : Nat} {l : List ActivePly} {np : Nat × ActivePly} (h : np ∈ numbered n l) : np.2 ∈ l := by
  induction l generalizing n with
  | nil => simp [numbered] at h
  | cons p l ih =>
    rw [numbered, List.mem_cons] at h
    rcases h with rfl | h
    · simp
    · exact List.mem_cons_of_mem _ (ih h)

theorem numbered_fst {n : Nat} {l : List ActivePly} {np : Nat × ActivePly} (h : np ∈ numbered n l) : n ≤ np.1 := by
  induction l generalizing n with
  | nil => simp [numbered] at h
  | cons p l ih =>
    rw [numbered, List.mem_cons] at h
    rcases h with rfl | h
    · exact Nat.le_refl _
    · exact (Nat.le_succ n).trans (ih h)

theorem Active.next_split {a : Active} {done left : List ActivePly} {p : ActivePly} (hs : a.plies = done ++ p :: left)
    (hd : ∀ q ∈ done, q.taken = true) (hp : p.taken = false) : a.next = some (done.length + 1, p) := by
  unfold Active.next
  rw [hs, numbered_append, List.find?_append, List.find?_eq_none.2, Option.none_or, numbered, List.find?_cons_of_pos]
  · rw [Nat.add_comm]
  · simp [hp]
  · intro np h
    simp [hd np.2 (numbered_snd h)]

theorem Active.ply_split {a : Active} {done left : List ActivePly} {p : ActivePly} (hs : a.plies = done ++ p :: left) :
    a.ply (done.length + 1) = some p := by
  simp [Active.ply, hs]

theorem Active.calledBin_split {a : Active} {done left : List ActivePly} {p : ActivePly} (hs : a.plies = done ++ p :: left)
    (hc : a.called = some (done.length + 1)) : a.calledBin = p.bin := by
  simp [Active.calledBin, hc, Active.ply_split hs]

/-- The planned bins of plies that are not taken, none of them kept (R129). -/
theorem filterMap_untaken {n : Nat} {l : List ActivePly} {keep : Option Nat} (hl : ∀ q ∈ l, q.taken = false)
    (hk : ∀ m, keep = some m → m < n) :
    ((numbered n l).filterMap fun np => if np.2.taken || keep = some np.1 then none else np.2.bin) =
      l.filterMap ActivePly.bin := by
  induction l generalizing n with
  | nil => rfl
  | cons p l ih =>
    have rest := ih (n := n + 1) (fun q hq => hl q (by simp [hq])) fun m hm => (hk m hm).trans (Nat.lt_succ_self n)
    have here : ¬ (p.taken || decide (keep = some n)) = true := by
      simp only [hl p (by simp), Bool.false_or, decide_eq_true_eq]
      exact fun h => absurd (hk n h) (Nat.lt_irrefl n)
    rw [numbered, List.filterMap_cons, List.filterMap_cons, rest]
    simp only [here]
    rfl

theorem filterMap_taken {n : Nat} {l : List ActivePly} {keep : Option Nat} (hl : ∀ q ∈ l, q.taken = true) :
    ((numbered n l).filterMap fun np => if np.2.taken || keep = some np.1 then none else np.2.bin) = [] := by
  rw [List.filterMap_eq_nil_iff]
  intro np h
  simp [hl np.2 (numbered_snd h)]

/-- The bins of all untaken plies (R129). -/
theorem Active.heldBins_none {a : Active} {done left : List ActivePly} {p : ActivePly} (hs : a.plies = done ++ p :: left)
    (hd : ∀ q ∈ done, q.taken = true) (hp : p.taken = false) (hl : ∀ q ∈ left, q.taken = false) :
    a.heldBins none = (p :: left).filterMap ActivePly.bin := by
  unfold Active.heldBins
  rw [hs, numbered_append, List.filterMap_append, filterMap_taken hd, List.nil_append, filterMap_untaken _ (by simp)]
  simpa [hp] using hl

/-- The bins of the untaken plies behind the called one (R130). -/
theorem Active.heldBins_called {a : Active} {done left : List ActivePly} {p : ActivePly} (hs : a.plies = done ++ p :: left)
    (hd : ∀ q ∈ done, q.taken = true) (hl : ∀ q ∈ left, q.taken = false) :
    a.heldBins (some (done.length + 1)) = left.filterMap ActivePly.bin := by
  unfold Active.heldBins
  rw [hs, numbered_append, List.filterMap_append, filterMap_taken hd, List.nil_append, numbered, List.filterMap_cons]
  simp only [Nat.add_comm 1, decide_true, Bool.or_true, if_true]
  exact filterMap_untaken hl (by simp)

/-- The plies of an order that fits, taken first and one untaken, split at the next one. -/
theorem Active.fits_iff (a : Active) : a.fits ↔ ∃ done p left, a.Drawn done p left := by
  constructor
  · rintro ⟨size, order, ⟨u, hu, hut⟩, called, withdrawn, closing, working⟩
    obtain ⟨p, hp⟩ := Option.isSome_iff_exists.1
      (List.find?_isSome.2 ⟨u, hu, by simp [hut]⟩ : (a.plies.find? fun q => !q.taken).isSome = true)
    obtain ⟨hp, done, left, hs, hd⟩ := List.find?_eq_some_iff_append.1 hp
    have hp : p.taken = false := by simpa using hp
    have hd : ∀ q ∈ done, q.taken = true := fun q hq => by simpa using hd q hq
    have hl : ∀ q ∈ left, q.taken = false := by
      rw [hs, List.pairwise_append, List.pairwise_cons] at order
      intro q hq
      by_contra hn
      have := order.2.1.1 q hq (by simpa using hn)
      simp [hp] at this
    have next := Active.next_split hs hd hp
    rw [next] at called withdrawn
    have is_called (n : Nat) (hn : a.called = some n) : n = done.length + 1 := by
      have := (called n (by simp [hn])).1
      simpa using this.symm
    refine ⟨done, p, left, hs, hd, hp, hl, size, fun n hn => ⟨is_called n hn, ?_⟩, fun n hn => ?_, fun hc => ?_, working⟩
    · have bin := (called n (by simp [hn])).2
      rwa [Active.calledBin_split hs (is_called n hn ▸ hn)] at bin
    · obtain ⟨h1, h2⟩ := withdrawn n (by simp [hn])
      exact ⟨by simpa using h1.symm, h2⟩
    · obtain ⟨h1, h2, h3⟩ := closing hc
      obtain ⟨n, hn⟩ := Option.isSome_iff_exists.1 h1
      rw [hn, is_called n hn, Active.heldBins_called hs hd hl, List.filterMap_eq_nil_iff] at h3
      exact ⟨h1, h2, h3⟩
  · rintro ⟨done, p, left, hs, hd, hp, hl, size, called, withdrawn, closing, working⟩
    have next := Active.next_split hs hd hp
    refine ⟨size, ?_, ⟨p, by simp [hs], hp⟩, fun n hn => ?_, fun n hn => ?_, fun hc => ?_, working⟩
    · rw [hs, List.pairwise_append, List.pairwise_cons]
      refine ⟨List.pairwise_of_forall_mem_list fun q hq r _ _ => hd q hq, ⟨fun q hq ht => ?_, ?_⟩, fun q hq r _ _ => hd q hq⟩
      · simp [hl q hq] at ht
      · exact List.pairwise_of_forall_mem_list fun q _ r hr ht => by simp [hl r hr] at ht
    · obtain ⟨rfl, hb⟩ := called n (by simpa using hn)
      exact ⟨by rw [next]; rfl, by rwa [Active.calledBin_split hs (by simpa using hn)]⟩
    · obtain ⟨rfl, hc⟩ := withdrawn n (by simpa using hn)
      exact ⟨by rw [next]; rfl, hc⟩
    · obtain ⟨h1, h2, h3⟩ := closing hc
      obtain ⟨n, hn⟩ := Option.isSome_iff_exists.1 h1
      obtain ⟨rfl, -⟩ := called n hn
      refine ⟨h1, h2, ?_⟩
      rw [hn, Active.heldBins_called hs hd hl, List.filterMap_eq_nil_iff]
      exact h3

/-- Plies of which the same are taken, split at the same place. -/
theorem Active.Drawn.retaken {a : Active} {done left : List ActivePly} {p : ActivePly} (h : a.Drawn done p left)
    {plies : List ActivePly} (ht : plies.map ActivePly.taken = a.plies.map ActivePly.taken) :
    ∃ done' p' left', plies = done' ++ p' :: left' ∧ done'.length = done.length ∧ (∀ q ∈ done', q.taken = true) ∧
      p'.taken = false ∧ (∀ q ∈ left', q.taken = false) ∧ a.plies[done.length]? = some p ∧
      plies[done.length]? = some p' := by
  rw [h.plies, List.map_append, List.map_cons] at ht
  obtain ⟨done', rest, rfl, h1, h2⟩ := List.map_eq_append_iff.1 ht
  obtain ⟨p', left', rfl, h3, h4⟩ := List.map_eq_cons_iff.1 h2
  have len : done'.length = done.length := by simpa using congrArg List.length h1
  refine ⟨done', p', left', rfl, len, fun q hq => ?_, h3.trans h.next_untaken, fun q hq => ?_, by simp [h.plies], by simp [← len]⟩
  · obtain ⟨x, hx, hxq⟩ := List.mem_map.1 (h1 ▸ List.mem_map_of_mem (f := ActivePly.taken) hq)
    exact hxq.symm.trans (h.done_taken x hx)
  · obtain ⟨x, hx, hxq⟩ := List.mem_map.1 (h4 ▸ List.mem_map_of_mem (f := ActivePly.taken) hq)
    exact hxq.symm.trans (h.left_untaken x hx)

/-! ## Sheets held by plies (R91) -/

/-- The number of untaken plies planned on a bin. -/
def heldCount (plies : List ActivePly) (b : Fin 8) : Nat := plies.countP fun p => p.heldOn b

theorem heldCount_append (l m : List ActivePly) (b : Fin 8) : heldCount (l ++ m) b = heldCount l b + heldCount m b :=
  List.countP_append

theorem heldCount_cons (p : ActivePly) (l : List ActivePly) (b : Fin 8) :
    heldCount (p :: l) b = heldCount l b + if p.heldOn b then 1 else 0 := List.countP_cons ..

theorem heldCount_zero {l : List ActivePly} {b : Fin 8} (h : ∀ p ∈ l, p.heldOn b = false) : heldCount l b = 0 := by
  rw [heldCount, List.countP_eq_zero]
  intro p hp
  simp [h p hp]

theorem heldCount_taken {l : List ActivePly} (h : ∀ p ∈ l, p.taken = true) (b : Fin 8) : heldCount l b = 0 :=
  heldCount_zero fun p hp => by simp [ActivePly.heldOn, h p hp]

theorem heldCount_unplanned {l : List ActivePly} (h : ∀ p ∈ l, p.bin = none) (b : Fin 8) : heldCount l b = 0 :=
  heldCount_zero fun p hp => by simp [ActivePly.heldOn, h p hp]

/-- What untaken plies hold are the bins they are planned on. -/
theorem heldCount_untaken {l : List ActivePly} (h : ∀ p ∈ l, p.taken = false) (b : Fin 8) :
    (l.filterMap ActivePly.bin).count b = heldCount l b := by
  induction l with
  | nil => rfl
  | cons p l ih =>
    have rest := ih fun q hq => h q (by simp [hq])
    rw [heldCount_cons, ← rest, List.filterMap_cons]
    cases hb : p.bin with
    | none => simp [ActivePly.heldOn, hb]
    | some c => simp [ActivePly.heldOn, hb, h p (by simp), List.count_cons]

theorem plannedOn_nil (b : Fin 8) : plannedOn [] b = 0 := rfl

theorem plannedOn_cons (a : Active) (l : List Active) (b : Fin 8) :
    plannedOn (a :: l) b = heldCount a.plies b + plannedOn l b := by
  simp only [plannedOn, List.flatMap_cons, List.length_append, heldCount, List.countP_eq_length_filter, ActivePly.heldOn]

theorem plannedOn_append (l m : List Active) (b : Fin 8) : plannedOn (l ++ m) b = plannedOn l b + plannedOn m b := by
  simp [plannedOn, List.flatMap_append]

theorem plannedOn_split (before after : List Active) (a : Active) (b : Fin 8) :
    plannedOn (before ++ a :: after) b = plannedOn (before ++ after) b + heldCount a.plies b := by
  simp only [plannedOn_append, plannedOn_cons]
  omega

/-! ## The lists of the orders after a change of one order -/

theorem OrdersFit.replace {queue : List Order} {before after : List Active} {a a' : Active} {finished : List Finished}
    (h : OrdersFit queue (before ++ a :: after) finished) (hslot : a'.slot = a.slot) (hnumber : a'.number = a.number)
    (hf : a'.fits) : OrdersFit queue (before ++ a' :: after) finished := by
  refine ⟨h.size, h.remakes, ?_, ?_, h.recipes, fun x hx => ?_, h.listed⟩
  · simpa [hnumber] using h.numbers
  · exact pairwise_replace h.slots (fun x _ hx => by rwa [hslot]) fun x _ hx => by rwa [hslot]
  · rcases List.mem_append.1 hx with hx | hx
    · exact h.fits x (by simp [hx])
    · rcases List.mem_cons.1 hx with rfl | hx
      · exact hf
      · exact h.fits x (by simp [hx])

/-- An order leaves its slot, and the finished list takes its entry (R112). -/
theorem OrdersFit.leave {queue : List Order} {before after : List Active} {a : Active} {finished finished' : List Finished}
    (h : OrdersFit queue (before ++ a :: after) finished) (hf : finished'.length ≤ 4) :
    OrdersFit queue (before ++ after) finished' := by
  have shorter : (before ++ after).Sublist (before ++ a :: after) :=
    List.Sublist.append (List.Sublist.refl _) (List.sublist_cons_self _ _)
  exact ⟨h.size, h.remakes, h.numbers.sublist ((List.Sublist.refl _).append (shorter.map _)), h.slots.sublist shorter,
    h.recipes, fun x hx => h.fits x (shorter.subset hx), hf⟩

/-- The head of the queue is admitted (R105). -/
theorem OrdersFit.activate {o : Order} {rest : List Order} {active : List Active} {a : Active} {finished : List Finished}
    (h : OrdersFit (o :: rest) active finished) (hnumber : a.number = o.number) (hslot : ∀ x ∈ active, x.slot ≠ a.slot)
    (hf : a.fits) : OrdersFit rest (active ++ [a]) finished := by
  refine ⟨(Nat.le_succ _).trans h.size, (List.pairwise_cons.1 h.remakes).2, ?_, ?_, fun x hx => h.recipes x (by simp [hx]),
    fun x hx => ?_, h.listed⟩
  · have numbers := h.numbers
    rw [List.map_cons, List.cons_append] at numbers
    rw [List.map_append, List.map_singleton, hnumber, ← List.append_assoc]
    exact (List.perm_append_singleton _ _).nodup_iff.2 numbers
  · exact List.pairwise_append.2 ⟨h.slots, List.pairwise_singleton _ _, fun x hx y hy => by
      rw [List.mem_singleton.1 hy]; exact hslot x hx⟩
  · rcases List.mem_append.1 hx with hx | hx
    · exact h.fits x hx
    · rw [List.mem_singleton.1 hx]; exact hf

theorem pushFinished_length (l : List Finished) (e : Finished) : (pushFinished l e).length ≤ 4 := by
  simp only [pushFinished, Config.finishedSize, List.length_drop, List.length_append, List.length_singleton]
  omega

/-- No other active order stands in an order's slot. -/
theorem OrdersFit.others {queue : List Order} {before after : List Active} {a : Active} {finished : List Finished}
    (h : OrdersFit queue (before ++ a :: after) finished) : ∀ x ∈ before ++ after, x.slot ≠ a.slot := by
  have slots := h.slots
  rw [List.pairwise_append, List.pairwise_cons] at slots
  intro x hx
  rcases List.mem_append.1 hx with hx | hx
  · exact slots.2.2 x hx a (by simp)
  · exact fun he => slots.2.1.1 x hx he.symm

theorem map_slot_split {before after : List Active} {a a' : Active} (h : ∀ x ∈ before ++ after, x.slot ≠ a.slot)
    (hs : a'.slot = a.slot) :
    (before ++ a :: after).map (fun x => if x.slot = a'.slot then a' else x) = before ++ a' :: after := by
  rw [hs, List.map_append, List.map_cons, if_pos rfl]
  congr 1
  · exact (List.map_congr_left fun x hx => if_neg (h x (by simp [hx]))).trans (List.map_id _)
  · exact congrArg _ ((List.map_congr_left fun x hx => if_neg (h x (by simp [hx]))).trans (List.map_id _))

theorem filter_slot_split {before after : List Active} {a : Active} (h : ∀ x ∈ before ++ after, x.slot ≠ a.slot) :
    (before ++ a :: after).filter (fun x => x.slot ≠ a.slot) = before ++ after := by
  rw [List.filter_append, List.filter_cons_of_neg (by simp), ← List.filter_append, List.filter_eq_self]
  intro x hx
  simpa using h x hx

/-! ## Reservations and releases keep the bins (R91, R92) -/

/-- The bins with reserved numbers changed within their counts. -/
theorem BinInv.setReserved {s : State} (h : BinInv s) {bins : Oct Bin} {n : Fin 8 → Nat}
    (hb : ∀ b, bins.get b = { s.bins.get b with reserved := n b }) (hn : ∀ b, n b ≤ (s.bins.get b).count) :
    BinInv { s with bins := bins } := by
  rw [binInv_iff] at h ⊢
  intro b
  rw [show ({ s with bins := bins } : State).bins.get b = _ from hb b]
  exact (h b).setReserved (hn b)

theorem BinInv.releaseAll {s : State} (h : BinInv s) (bs : List (Fin 8)) :
    BinInv { s with bins := releaseAll s.bins bs } :=
  h.setReserved (releaseAll_get s.bins bs) fun b => (Nat.sub_le _ _).trans (h b).1

theorem availableNow_le (bins : Oct Bin) (b : Fin 8) :
    (availableNow bins).get b ≤ (bins.get b).count - (bins.get b).reserved := by
  simp only [availableNow, Oct.get_of]
  split
  · exact Nat.zero_le _
  · exact Nat.le_refl _

/-- A plan reserves no more than is available. -/
theorem BinInv.reserveAll {s : State} (h : BinInv s) {bs : List (Fin 8)}
    (hb : ∀ b, bs.count b ≤ (availableNow s.bins).get b) : BinInv { s with bins := reserveAll s.bins bs } := by
  refine h.setReserved (reserveAll_get s.bins bs) fun b => ?_
  have enough := (hb b).trans (availableNow_le s.bins b)
  have fits := (h b).1
  omega

/-- A re-planning reserves no more than is available (R139). -/
theorem BinInv.replan {s : State} (b : Fin 8) (plies : List ActivePly) (h : BinInv s) :
    BinInv { s with bins := (replan b plies s.bins).2.1 } := by
  induction plies generalizing s with
  | nil => exact h
  | cons p rest ih =>
    rw [Machine.replan]
    split
    · split
      next c hc =>
        have one : BinInv { s with bins := reserveOne s.bins c } := by
          refine h.reserveAll (bs := [c]) fun i => ?_
          rw [List.count_singleton]
          split
          next hi => rw [beq_iff_eq] at hi; subst hi; exact (plyChoice_fits hc).2.2
          next => exact Nat.zero_le _
        exact ih one
      next => exact ih h
    · exact ih h

/-! ## Admission and growth (R104 to R107, R141) -/

theorem State.lowestFree_some {s : State} {k : Fin 2} (h : s.lowestFree = some k) : ∀ x ∈ s.active, x.slot ≠ k := by
  simpa using List.find?_some h

/-- The slot record of an admitted order fits: every ply planned, none taken, none called (R105). -/
theorem admittedRecord_drawn {s : State} {k : Fin 2} {o : Order} {bs : List (Fin 8)} (hl : bs.length = o.plies.length)
    (hr : recipeSize o.plies.length) :
    ∃ p left, (admittedRecord s k o bs).Drawn [] p left := by
  have len : (admittedRecord s k o bs).plies.length = o.plies.length := by simp [admittedRecord, hl]
  have planned : ∀ p ∈ (admittedRecord s k o bs).plies, p.taken = false ∧ p.bin.isSome = true := by
    intro p hp
    obtain ⟨x, -, rfl⟩ := List.mem_map.1 hp
    exact ⟨rfl, rfl⟩
  obtain ⟨p, left, hs⟩ := List.exists_cons_of_length_pos (l := (admittedRecord s k o bs).plies) (by rw [len]; omega)
  refine ⟨p, left, hs, by simp, (planned p (by simp [hs])).1, fun q hq => (planned q (by simp [hs, hq])).1, by rwa [len],
    by simp [admittedRecord], by simp [admittedRecord], by simp [Active.isClosing, admittedRecord], fun _ => ⟨rfl, ?_⟩⟩
  have no_gap : (admittedRecord s k o bs).plies.any ActivePly.unplanned = false := by
    rw [List.any_eq_false]
    intro q hq
    simp [ActivePly.unplanned, Option.isSome_iff_ne_none.1 (planned q hq).2]
  have none_taken : (admittedRecord s k o bs).plies.any ActivePly.taken = false := by
    rw [List.any_eq_false]
    intro q hq
    simp [(planned q hq).1]
  simp [workedOut, no_gap, none_taken]
  rfl

theorem heldCount_admitted (ps : List Ply) (bs : List (Fin 8)) (hl : bs.length = ps.length) (b : Fin 8) :
    heldCount ((ps.zip bs).map fun pb => { ply := pb.1, bin := some pb.2, taken := false }) b = bs.count b := by
  induction ps generalizing bs with
  | nil => simp [List.length_eq_zero_iff.1 hl, heldCount]
  | cons p ps ih =>
    obtain ⟨c, cs, rfl⟩ := List.exists_cons_of_length_pos (l := bs) (by simp [hl])
    rw [List.zip_cons_cons, List.map_cons, heldCount_cons, ih cs (by simpa using hl), List.count_cons]
    simp [ActivePly.heldOn]

theorem WorkKept.admitHead {s t : State} (h : s.admitHead = some t) : WorkKept s t := by
  obtain ⟨k, o, rest, bs, hk, hq, hp, rfl⟩ := State.admitHead_some h
  obtain ⟨hlen, -, hcount⟩ := planPlies_fits hp
  refine .after (.stands (.raise _ .admitted)) (.ofOrders rfl rfl (fun hb => ?_) fun ho => ?_)
  · exact BinInv.congr (hb.reserveAll hcount) rfl rfl fun _ => rfl
  · rw [orderInv_iff] at ho ⊢
    obtain ⟨hf, hr⟩ := ho
    rw [hq] at hf
    obtain ⟨p, left, drawn⟩ := admittedRecord_drawn (s := s) (k := k) hlen (hf.recipes o (by simp))
    refine ⟨hf.activate rfl (State.lowestFree_some hk) ((Active.fits_iff _).2 ⟨[], p, left, drawn⟩), fun b => ?_⟩
    simp only [plannedOn_append, plannedOn_cons, plannedOn_nil, reserveAll_get, hr b]
    rw [show heldCount (admittedRecord s k o bs).plies b = _ from heldCount_admitted o.plies bs hlen b]
    omega

theorem WorkKept.admissions (s : State) : WorkKept s s.admissions :=
  State.admissions_induct (P := WorkKept s) (fun _ _ h ht => h.trans (.admitHead ht)) (.refl s)

/-- A plan fills each unplanned ply, and leaves the others. -/
theorem fillPlan_spec (plies : List ActivePly) (bs : List (Fin 8)) (hl : bs.length = (plies.filter ActivePly.unplanned).length) :
    (∀ b, heldCount (fillPlan plies bs) b = heldCount plies b + bs.count b) ∧
    ∀ (n : Nat) (p q : ActivePly), plies[n]? = some p → (fillPlan plies bs)[n]? = some q → p.bin.isSome = true → q = p := by
  induction plies generalizing bs with
  | nil =>
    obtain rfl : bs = [] := by simpa using hl
    simp [fillPlan]
  | cons p rest ih =>
    cases hu : p.unplanned with
    | true =>
      obtain ⟨c, cs, rfl⟩ := List.exists_cons_of_length_pos (l := bs) (by simp [hl, hu])
      obtain ⟨counts, kept⟩ := ih cs (by simpa [hu] using hl)
      simp only [ActivePly.unplanned, Bool.and_eq_true, Bool.not_eq_true', Option.isNone_iff_eq_none] at hu
      have filled : fillPlan (p :: rest) (c :: cs) = { p with bin := some c } :: fillPlan rest cs := by
        simp [fillPlan, ActivePly.unplanned, hu]
      rw [filled]
      refine ⟨fun b => ?_, fun n x q hx hq hb => ?_⟩
      · rw [heldCount_cons, heldCount_cons, counts b, List.count_cons]
        simp only [ActivePly.heldOn, hu]
        simp
        omega
      · cases n with
        | zero =>
          obtain rfl : p = x := by simpa using hx
          simp [hu.2] at hb
        | succ n => exact kept n x q (by simpa using hx) (by simpa using hq) hb
    | false =>
      obtain ⟨counts, kept⟩ := ih bs (by simpa [hu] using hl)
      have filled : fillPlan (p :: rest) bs = p :: fillPlan rest bs := by
        cases bs <;> simp [fillPlan, hu]
      rw [filled]
      refine ⟨fun b => ?_, fun n x q hx hq hb => ?_⟩
      · rw [heldCount_cons, heldCount_cons, counts b]
        omega
      · cases n with
        | zero => simp at hx hq; rw [← hx, ← hq]
        | succ n => exact kept n x q (by simpa using hx) (by simpa using hq) hb

/-- An order that is not CLOSING with its plies planned anew: what is taken stays, and so does a called ply's plan. -/
theorem Active.Drawn.replanned {a : Active} {done left : List ActivePly} {p : ActivePly} (h : a.Drawn done p left)
    (hw : a.isClosing = false) {plies : List ActivePly} {called withdrawn : Option Nat}
    (ht : plies.map ActivePly.taken = a.plies.map ActivePly.taken)
    (hc : ∀ n, called = some n → n = done.length + 1 ∧ ∀ q, plies[done.length]? = some q → q.bin.isSome = true)
    (hwd : ∀ n, withdrawn = some n → n = done.length + 1 ∧ called = none) :
    Active.fits { a with
      plies := plies, called := called, withdrawn := withdrawn, state := workedOut plies called } := by
  obtain ⟨done', p', left', hs, len, hd, hp, hl, -, hnext⟩ := h.retaken ht
  have size : plies.length = a.plies.length := by simpa using congrArg List.length ht
  have not_closing : Active.isClosing { a with
      plies := plies, called := called, withdrawn := withdrawn, state := workedOut plies called } = false := by
    simp only [Active.isClosing, workedOut]
    split
    next hst => split at hst <;> [cases hst; split at hst <;> cases hst]
    all_goals rfl
  refine (Active.fits_iff _).2 ⟨done', p', left', hs, hd, hp, hl, by simpa only [size] using h.size, fun n hn => ?_,
    fun n hn => ?_, fun hcl => absurd (not_closing.symm.trans hcl) (by simp), fun _ => ⟨(h.working hw).1, rfl⟩⟩
  · rw [len]
    obtain ⟨h1, h2⟩ := hc n hn
    exact ⟨h1, h2 p' hnext⟩
  · rw [len]
    exact hwd n hn

theorem State.findSlot_some {s : State} {k : Fin 2} {a : Active} (h : s.findSlot k = some a) :
    ∃ before after, s.active = before ++ a :: after :=
  List.append_of_mem (List.mem_of_find?_eq_some h)

theorem State.findActive_some {s : State} {n : Word} {a : Active} (h : s.findActive n = some a) :
    ∃ before after, s.active = before ++ a :: after :=
  List.append_of_mem (List.mem_of_find?_eq_some h)

/-- One order changes where it stands, and the reserved numbers with what it holds. -/
theorem OrderInv.become {s : State} (h : OrderInv s) {before after : List Active} {a a' : Active}
    (hs : s.active = before ++ a :: after) (hslot : a'.slot = a.slot) (hnumber : a'.number = a.number) (hf : a'.fits)
    {bins : Oct Bin}
    (hb : ∀ b, (bins.get b).reserved + heldCount a.plies b = (s.bins.get b).reserved + heldCount a'.plies b) :
    OrderInv { s.setActive a' with bins := bins } := by
  have active : ({ s.setActive a' with bins := bins } : State).active = before ++ a' :: after :=
    State.setActive_split h hs hslot
  rw [orderInv_iff] at h ⊢
  obtain ⟨fits, reserved⟩ := h
  rw [hs] at fits
  rw [active]
  refine ⟨fits.replace hslot hnumber hf, fun b => ?_⟩
  have old := reserved b
  have new := hb b
  rw [hs, plannedOn_split] at old
  rw [plannedOn_split]
  dsimp only
  omega

/-- One order leaves its slot, and what it holds is released (R112). -/
theorem OrderInv.leave {s : State} (h : OrderInv s) {before after : List Active} {a : Active}
    (hs : s.active = before ++ a :: after) (x : Finish) {bins : Oct Bin}
    (hb : ∀ b, (bins.get b).reserved + heldCount a.plies b = (s.bins.get b).reserved) :
    OrderInv ({ s with bins := bins }.leaveSlot a x) := by
  have active : ({ s with bins := bins }.leaveSlot a x).active = before ++ after := by
    rw [State.leaveSlot, State.reportFinish_active]
    exact State.freeSlot_split h hs
  rw [orderInv_iff] at h ⊢
  obtain ⟨fits, reserved⟩ := h
  rw [hs] at fits
  rw [active]
  refine ⟨fits.leave (pushFinished_length _ _), fun b => ?_⟩
  have old := reserved b
  have new := hb b
  rw [hs, plannedOn_split] at old
  rw [State.leaveSlot_bins]
  dsimp only
  omega

theorem WorkKept.retryStalled (s : State) (k : Fin 2) : WorkKept s (s.retryStalled k) := by
  obtain h | ⟨a, bs, ha, hst, hp, h⟩ := s.retryStalled_cases k <;> rw [h]
  · exact .refl s
  · obtain ⟨hlen, -, hcount⟩ := planPlies_fits hp
    obtain ⟨before, after, hs⟩ := State.findSlot_some ha
    refine .after (.stands (.raise _ .resumed)) (.ofOrders rfl rfl (fun hb => ?_) fun ho => ?_)
    · exact BinInv.congr (hb.reserveAll hcount) rfl rfl fun _ => rfl
    · obtain ⟨counts, kept⟩ := fillPlan_spec a.plies bs (by simpa using hlen)
      obtain ⟨done, p, left, drawn⟩ := (Active.fits_iff a).1 (((orderInv_iff s).1 ho).1.fits a (by simp [hs]))
      refine ho.become (a' := { a with
        plies := fillPlan a.plies bs, state := workedOut (fillPlan a.plies bs) a.called }) hs rfl rfl ?_ fun b => ?_
      · refine drawn.replanned (by simp [Active.isClosing, hst]) (fillPlan_plies a.plies bs).2 (called := a.called)
          (withdrawn := a.withdrawn) (fun n hn => ⟨(drawn.called n hn).1, fun q hq => ?_⟩) drawn.withdrawn
        have planned := (drawn.called n hn).2
        rwa [kept done.length p q (by simp [drawn.plies]) hq planned]
      · simp only [reserveAll_get, counts b]
        omega

theorem WorkKept.growth (s : State) : WorkKept s s.growth :=
  State.growth_induct (P := WorkKept s) (fun _ k h => h.trans (.retryStalled _ k)) (fun _ _ h ht => h.trans (.admitHead ht))
    (.refl s)

theorem WorkKept.afterRelease (s : State) (released : List (Fin 8)) : WorkKept s (s.afterRelease released) := by
  rw [State.afterRelease_eq]
  split
  · exact .admissions s
  · exact .growth s

end Sys2Proof.Machine

namespace Sys2Proof.Machine

/-! ## The drop of a sheet (R85) -/

theorem WorkKept.dropped (s : State) (sheet : Word) : WorkKept s (s.dropped sheet).1 := by
  unfold State.dropped
  split
  · exact .stands (.outOfOrder s)
  next e he =>
    split
    next r b hp =>
      split
      · refine .after (.stands (.announce _ _)) (.after (.growth _) ?_)
        refine WorkKept.arrive (r := r) (List.mem_of_find?_eq_some he) hp (.inr rfl) rfl ?_ rfl rfl rfl rfl
        simp [State.inboundDown, State.pushRecord]
      · exact .stands (.outOfOrder s)
    all_goals exact .stands (.outOfOrder s)

/-! ## Finishing and aborting (R125, R129 to R131, R133, R134) -/

theorem Active.isClosing_eq_false {a : Active} (h : ∀ c, a.state ≠ .closing c) : a.isClosing = false := by
  unfold Active.isClosing
  split
  next c hc => exact absurd hc (h c)
  all_goals rfl

theorem Active.isClosing_of_state {a : Active} {c : AbortCause} (h : a.state = .closing c) : a.isClosing = true := by
  simp [Active.isClosing, h]

/-- What an order that fits holds of a bin. -/
theorem Active.Drawn.heldCount {a : Active} {done left : List ActivePly} {p : ActivePly} (h : a.Drawn done p left)
    (b : Fin 8) : heldCount a.plies b = heldCount left b + if p.bin = some b then 1 else 0 := by
  rw [h.plies, heldCount_append, heldCount_cons, heldCount_taken h.done_taken, Nat.zero_add]
  simp [ActivePly.heldOn, h.next_untaken]

/-- An order with a called ply: its number is that of the next ply, and its bin is that ply's. -/
theorem Active.Drawn.calledPly {a : Active} {done left : List ActivePly} {p : ActivePly} (h : a.Drawn done p left)
    {n : Nat} (hn : a.called = some n) : n = done.length + 1 ∧ a.calledBin = p.bin := by
  obtain ⟨rfl, -⟩ := h.called n hn
  exact ⟨rfl, Active.calledBin_split h.plies hn⟩

theorem BinInv.leaveSlot {s : State} (h : BinInv s) (a : Active) (x : Finish) : BinInv (s.leaveSlot a x) :=
  h.congr rfl rfl fun _ => rfl

theorem unplan_untaken {n : Nat} {l : List ActivePly} {keep : Nat} (hl : ∀ q ∈ l, q.taken = false) (hk : keep < n) :
    ((numbered n l).map fun np => if np.2.taken || some keep = some np.1 then np.2 else { np.2 with bin := none }) =
      l.map fun q => { q with bin := none } := by
  induction l generalizing n with
  | nil => rfl
  | cons p l ih =>
    have here : ¬ (p.taken || decide (some keep = some n)) = true := by
      simp only [hl p (by simp), Bool.false_or, decide_eq_true_eq, Option.some.injEq]
      omega
    rw [numbered, List.map_cons, List.map_cons, ih (fun q hq => hl q (by simp [hq])) (hk.trans (Nat.lt_succ_self n))]
    simp only [here]
    rfl

theorem unplan_taken {n : Nat} {l : List ActivePly} {keep : Option Nat} (hl : ∀ q ∈ l, q.taken = true) :
    ((numbered n l).map fun np => if np.2.taken || keep = some np.1 then np.2 else { np.2 with bin := none }) = l := by
  induction l generalizing n with
  | nil => rfl
  | cons p l ih =>
    rw [numbered, List.map_cons, ih fun q hq => hl q (by simp [hq])]
    simp [hl p (by simp)]

/-- The plies of an order that enters CLOSING: the called ply alone keeps its plan (R130). -/
theorem Active.Drawn.unplan {a : Active} {done left : List ActivePly} {p : ActivePly} (h : a.Drawn done p left) :
    a.unplan (some (done.length + 1)) = done ++ p :: left.map fun q => { q with bin := none } := by
  unfold Active.unplan
  rw [h.plies, numbered_append, List.map_append, unplan_taken h.done_taken, numbered, List.map_cons,
    unplan_untaken h.left_untaken (by omega)]
  simp only [Nat.add_comm 1, decide_true, Bool.or_true, if_true]

theorem WorkKept.abort {s : State} {a : Active} (ha : a ∈ s.active) (cause : AbortCause) :
    WorkKept s (s.abort a cause) := by
  obtain ⟨before, after, hs⟩ := List.append_of_mem ha
  have split (ho : OrderInv s) : ∃ done p left, a.Drawn done p left :=
    (Active.fits_iff a).1 (((orderInv_iff s).1 ho).1.fits a ha)
  have released (b : Fin 8) (ho : OrderInv s) {bs : List (Fin 8)} {kept : Nat}
      (hc : bs.count b + kept = heldCount a.plies b) :
      ((releaseAll s.bins bs).get b).reserved + heldCount a.plies b = (s.bins.get b).reserved + kept := by
    have old := ((orderInv_iff s).1 ho).2 b
    rw [hs, plannedOn_split] at old
    rw [releaseAll_get]
    dsimp only
    omega
  unfold State.abort
  dsimp only
  split
  next hcalled =>
    refine .after (.afterRelease _ _) (.ofOrders rfl rfl (fun hb => (hb.releaseAll _).leaveSlot _ _) fun ho => ?_)
    obtain ⟨done, p, left, drawn⟩ := split ho
    refine ho.leave hs _ fun b => ?_
    have untaken : ∀ q ∈ p :: left, q.taken = false := by simpa [drawn.next_untaken] using drawn.left_untaken
    refine released b ho (kept := 0) ?_
    rw [hcalled, Active.heldBins_none drawn.plies drawn.done_taken drawn.next_untaken drawn.left_untaken,
      heldCount_untaken untaken, drawn.plies, heldCount_append, heldCount_taken drawn.done_taken]
    omega
  next n hcalled =>
    refine .after (.afterRelease _ _) (.ofOrders rfl rfl (fun hb => ?_) fun ho => ?_)
    · exact (hb.releaseAll _).congr rfl rfl fun _ => rfl
    · obtain ⟨done, p, left, drawn⟩ := split ho
      obtain ⟨rfl, planned⟩ := drawn.called n hcalled
      have unplanned : ∀ q ∈ left.map fun q => { q with bin := none }, q.taken = false ∧ q.bin = none := by
        intro q hq
        obtain ⟨x, hx, rfl⟩ := List.mem_map.1 hq
        exact ⟨drawn.left_untaken x hx, rfl⟩
      have size := drawn.size
      rw [drawn.plies] at size
      refine ho.become (a' := { a with
        plies := a.unplan (some (done.length + 1)), state := .closing cause, withdrawn := none, hold := none })
        hs rfl rfl ((Active.fits_iff _).2 ⟨done, p, _, drawn.unplan, drawn.done_taken, drawn.next_untaken,
        fun q hq => (unplanned q hq).1, by simpa [drawn.unplan] using size,
        fun n hn => drawn.called n hn, nofun,
        fun _ => ⟨by simp [hcalled], rfl, fun q hq => (unplanned q hq).2⟩, nofun⟩) fun b => ?_
      refine released b ho ?_
      rw [hcalled, Active.heldBins_called drawn.plies drawn.done_taken drawn.left_untaken,
        heldCount_untaken drawn.left_untaken, drawn.unplan, drawn.heldCount, heldCount_append,
        heldCount_taken drawn.done_taken, heldCount_cons, heldCount_unplanned fun q hq => (unplanned q hq).2]
      simp [ActivePly.heldOn, drawn.next_untaken]

/-- A CLOSING order holds its called ply alone (R132). -/
theorem Active.fits.closingHeld {a : Active} (h : a.fits) (hc : a.isClosing = true) (b : Fin 8) :
    heldCount a.plies b = if a.calledBin = some b then 1 else 0 := by
  obtain ⟨done, p, left, drawn⟩ := (Active.fits_iff a).1 h
  obtain ⟨called, -, unplanned⟩ := drawn.closing hc
  obtain ⟨n, hn⟩ := Option.isSome_iff_exists.1 called
  rw [drawn.heldCount, heldCount_unplanned unplanned, (drawn.calledPly hn).2, Nat.zero_add]

/-- UNCALL of a CLOSING order (R134). -/
theorem WorkKept.settleClosing {s : State} {a : Active} (ha : a ∈ s.active) (hc : a.isClosing = true)
    (cause : AbortCause) : WorkKept s (s.settleClosing a cause) := by
  obtain ⟨before, after, hs⟩ := List.append_of_mem ha
  refine .after (.afterRelease _ _) (.ofOrders rfl rfl (fun hb => (hb.releaseAll _).leaveSlot _ _) fun ho => ?_)
  refine ho.leave hs _ fun b => ?_
  have old := ((orderInv_iff s).1 ho).2 b
  have held := (((orderInv_iff s).1 ho).1.fits a ha).closingHeld hc b
  rw [hs, plannedOn_split] at old
  rw [releaseAll_get]
  have one : a.calledBin.toList.count b = if a.calledBin = some b then 1 else 0 := by
    cases a.calledBin <;> simp [List.count_singleton]
  dsimp only
  omega

/-- A take of the top record (R93). -/
theorem BinInv.takeFrom {s : State} (h : BinInv s) (b : Fin 8) : BinInv (s.takeFrom b) := by
  rw [binInv_iff] at h ⊢
  intro c
  rw [State.takeFrom, State.setBin_bins, State.setBin_table, State.setBin_ram, Oct.get_set]
  split
  next hc =>
    subst hc
    have old := h c
    refine old.setStack (List.tail_sublist _) ?_
    have reserved := old.reserved
    simp only [Bin.count] at reserved
    rw [List.length_tail]
    omega
  next => exact h c

theorem takeFrom_reserved (s : State) (b c : Fin 8) :
    ((s.takeFrom b).bins.get c).reserved = (s.bins.get c).reserved - if b = c then 1 else 0 := by
  rw [State.takeFrom, State.setBin_bins, Oct.get_set]
  by_cases hc : c = b
  · simp [hc]
  · simp [hc, Ne.symm hc]

theorem WorkKept.takeLate {s : State} {a : Active} {b : Fin 8} (ha : a ∈ s.active) (hc : a.isClosing = true)
    (hb : a.calledBin = some b) (cause : AbortCause) : WorkKept s (s.takeLate a b cause) := by
  obtain ⟨before, after, hs⟩ := List.append_of_mem ha
  refine .after (.admissions _) (.ofOrders rfl rfl (fun h => (h.takeFrom b).leaveSlot _ _) fun ho => ?_)
  refine ho.leave (bins := (s.takeFrom b).bins) hs _ fun c => ?_
  have old := ((orderInv_iff s).1 ho).2 c
  have held := (((orderInv_iff s).1 ho).1.fits a ha).closingHeld hc c
  rw [hs, plannedOn_split] at old
  rw [takeFrom_reserved]
  simp only [hb, Option.some.injEq] at held
  omega

theorem markTaken_before {n m : Nat} {l : List ActivePly} (h : n + l.length ≤ m) :
    ((numbered n l).map fun np => if np.1 = m then { np.2 with taken := true } else np.2) = l := by
  induction l generalizing n with
  | nil => rfl
  | cons p l ih =>
    rw [List.length_cons] at h
    rw [numbered, List.map_cons, ih (by omega), if_neg (show ¬ n = m by omega)]

theorem markTaken_after {n m : Nat} {l : List ActivePly} (h : m < n) :
    ((numbered n l).map fun np => if np.1 = m then { np.2 with taken := true } else np.2) = l := by
  induction l generalizing n with
  | nil => rfl
  | cons p l ih => rw [numbered, List.map_cons, ih (by omega), if_neg (show ¬ n = m by omega)]

/-- The plies after the take of the called one (R124). -/
theorem Active.markTaken_split {a : Active} {done left : List ActivePly} {p : ActivePly} (hs : a.plies = done ++ p :: left) :
    a.markTaken (done.length + 1) = done ++ { p with taken := true } :: left := by
  unfold Active.markTaken
  rw [hs, numbered_append, List.map_append, markTaken_before (by omega), numbered, List.map_cons,
    markTaken_after (by omega), if_pos (show 1 + done.length = done.length + 1 by omega)]

theorem untaken_split {done left : List ActivePly} {p : ActivePly} (hd : ∀ q ∈ done, q.taken = true)
    (hp : p.taken = true) (hl : ∀ q ∈ left, q.taken = false) : untaken (done ++ p :: left) = left.length := by
  unfold untaken
  rw [List.filter_append, List.filter_eq_nil_iff.2 (by simpa using hd), List.nil_append,
    List.filter_cons_of_neg (by simp [hp]), List.filter_eq_self.2 (by simpa using hl)]

theorem WorkKept.take {s : State} {a : Active} {n : Nat} {b : Fin 8} (ha : a ∈ s.active)
    (hn : a.called = some n) (hb : a.calledBin = some b) : WorkKept s (s.take a n b) := by
  obtain ⟨before, after, hs⟩ := List.append_of_mem ha
  have split (ho : OrderInv s) : ∃ done p left, a.Drawn done p left :=
    (Active.fits_iff a).1 (((orderInv_iff s).1 ho).1.fits a ha)
  have reserved (ho : OrderInv s) {done left : List ActivePly} {p : ActivePly} (drawn : a.Drawn done p left) (c : Fin 8) :
      ((s.takeFrom b).bins.get c).reserved + heldCount a.plies c = (s.bins.get c).reserved + heldCount left c := by
    have old := ((orderInv_iff s).1 ho).2 c
    have held := drawn.heldCount c
    rw [← (drawn.calledPly hn).2, hb] at held
    simp only [Option.some.injEq] at held
    rw [hs, plannedOn_split] at old
    rw [takeFrom_reserved]
    omega
  unfold State.take
  dsimp only
  split
  next last =>
    refine .after (.admissions _) (.ofOrders rfl rfl (fun h => (h.takeFrom b).leaveSlot _ _) fun ho => ?_)
    obtain ⟨done, p, left, drawn⟩ := split ho
    obtain ⟨rfl, -⟩ := drawn.calledPly hn
    have none_left : left = [] := by
      have := last
      simp only [Active.afterTake, Active.markTaken_split drawn.plies,
        untaken_split (p := { p with taken := true }) drawn.done_taken rfl drawn.left_untaken] at this
      exact List.length_eq_zero_iff.1 this
    refine ho.leave (bins := (s.takeFrom b).bins) hs _ fun c => ?_
    rw [reserved ho drawn c, none_left]
    rfl
  next more =>
    refine .ofOrders rfl rfl (fun h => (h.takeFrom b).congr rfl rfl fun _ => rfl) fun ho => ?_
    obtain ⟨done, p, left, drawn⟩ := split ho
    obtain ⟨rfl, -⟩ := drawn.calledPly hn
    have plies : (a.afterTake (done.length + 1) s.ram.orderHoldTime).plies = done ++ { p with taken := true } :: left :=
      Active.markTaken_split drawn.plies
    have some_left : left ≠ [] := by
      intro h
      rw [plies, untaken_split drawn.done_taken rfl drawn.left_untaken, h] at more
      exact more rfl
    obtain ⟨p', left', hleft⟩ := List.exists_cons_of_ne_nil some_left
    have size := drawn.size
    rw [drawn.plies] at size
    have not_closing : (a.afterTake (done.length + 1) s.ram.orderHoldTime).isClosing = false := by
      refine Active.isClosing_eq_false fun c => ?_
      simp only [Active.afterTake, workedOut]
      split <;> [simp; split <;> simp]
    refine ho.become (a' := a.afterTake (done.length + 1) s.ram.orderHoldTime) (bins := (s.takeFrom b).bins) hs rfl rfl
      ((Active.fits_iff _).2
      ⟨done ++ [{ p with taken := true }], p', left', by rw [plies, hleft]; simp, fun q hq => ?_,
        drawn.left_untaken p' (by simp [hleft]), fun q hq => drawn.left_untaken q (by simp [hleft, hq]),
        by simpa [plies] using size, nofun, fun m hm => ?_, fun h => absurd (not_closing.symm.trans h) (by simp),
        fun _ => ⟨rfl, rfl⟩⟩) fun c => ?_
    · rcases List.mem_append.1 hq with hq | hq
      · exact drawn.done_taken q hq
      · rw [List.mem_singleton.1 hq]
    · have := (drawn.withdrawn m hm).2
      simp [hn] at this
    · rw [plies, heldCount_append, heldCount_cons, heldCount_taken drawn.done_taken]
      simpa [ActivePly.heldOn] using reserved ho drawn c

/-! ## The commands of the P port -/

/-- A call or its end changes what the order holds of no bin (R122, R127). -/
theorem WorkKept.recall {s : State} {a : Active} (ha : a ∈ s.active) (hw : a.isClosing = false)
    {called withdrawn : Option Nat}
    (hc : ∀ done p left, a.Drawn done p left →
      (∀ n, called = some n → n = done.length + 1 ∧ p.bin.isSome = true) ∧
      ∀ n, withdrawn = some n → n = done.length + 1 ∧ called = none) :
    WorkKept s (s.setActive { a with
      called := called, withdrawn := withdrawn, state := workedOut a.plies called }) := by
  obtain ⟨before, after, hs⟩ := List.append_of_mem ha
  refine .ofOrders rfl rfl (fun h => h.congr rfl rfl fun _ => rfl) fun ho => ?_
  obtain ⟨done, p, left, drawn⟩ := (Active.fits_iff a).1 (((orderInv_iff s).1 ho).1.fits a ha)
  obtain ⟨hcalled, hwithdrawn⟩ := hc done p left drawn
  refine ho.become (a' := { a with
    called := called, withdrawn := withdrawn, state := workedOut a.plies called }) (bins := s.bins) hs rfl rfl ?_
    fun b => rfl
  refine drawn.replanned hw rfl (fun n hn => ⟨(hcalled n hn).1, fun q hq => ?_⟩) hwithdrawn
  obtain rfl : p = q := by simpa [drawn.plies] using hq
  exact (hcalled n hn).2

theorem joinQueue_perm (q : List Order) (o : Order) : (joinQueue q o).Perm (o :: q) := by
  unfold joinQueue
  split
  · exact List.perm_append_singleton _ _
  · refine List.perm_middle.trans (.cons _ ?_)
    have parts := List.filter_append_perm (fun x : Order => decide (x.cls = .remake)) q
    have normal : q.filter (fun x => !decide (x.cls = .remake)) = q.filter fun x => x.cls = .normal := by
      refine List.filter_congr fun x _ => ?_
      cases x.cls <;> rfl
    rwa [normal] at parts

/-- REMAKE orders stay ahead of NORMAL ones (R101). -/
theorem joinQueue_remakes {q : List Order} (h : q.Pairwise fun x y => y.cls = .remake → x.cls = .remake) (o : Order) :
    (joinQueue q o).Pairwise fun x y => y.cls = .remake → x.cls = .remake := by
  unfold joinQueue
  split
  next hn =>
    refine List.pairwise_append.2 ⟨h, List.pairwise_singleton _ _, fun x _ y hy hr => ?_⟩
    rw [List.mem_singleton.1 hy, hn] at hr
    cases hr
  next hr =>
    have remake : ∀ x ∈ q.filter (fun x => x.cls = .remake), x.cls = .remake := fun x hx => by
      simpa using (List.mem_filter.1 hx).2
    have normal : ∀ x ∈ q.filter (fun x => x.cls = .normal), x.cls = .normal := fun x hx => by
      simpa using (List.mem_filter.1 hx).2
    refine List.pairwise_append.2 ⟨h.filter _, List.pairwise_cons.2 ⟨fun _ _ _ => hr, h.filter _⟩, fun x hx _ _ _ => remake x hx⟩

theorem pliesOf_length {l : List Byte} {ps : List Ply} (h : pliesOf l = some ps) : ps.length = l.length := by
  induction l generalizing ps with
  | nil => simp [pliesOf] at h; simp [h]
  | cons b l ih =>
    rw [pliesOf] at h
    split at h
    next p qs _ hq => cases h; simp [ih hq]
    next => cases h

theorem recipeOf_size {number : Word} {cls count : Byte} {plies : List Byte} {o : Order}
    (h : recipeOf number cls count plies = some o) : o.number = number ∧ recipeSize o.plies.length := by
  unfold recipeOf at h
  split at h
  next hc =>
    obtain ⟨h1, h2, h3, h4⟩ := hc
    split at h
    next c ps _ hp =>
      cases h
      refine ⟨rfl, ?_⟩
      rw [show recipeSize ps.length = recipeSize count.toNat by rw [pliesOf_length hp, h4]]
      exact ⟨h1, h2, h3⟩
    next => cases h
  next => cases h

theorem WorkKept.takeOrder (s : State) (number : Word) (cls count : Byte) (plies : List Byte) :
    WorkKept s (s.takeOrder number cls count plies).1 := by
  unfold State.takeOrder
  split
  · exact .refl s
  next o ho =>
    split
    · exact .refl s
    next hfree =>
      split
      · exact .refl s
      next hroom =>
        refine .after (.admissions _) (.ofOrders rfl rfl (fun h => h.congr rfl rfl fun _ => rfl) fun h => ?_)
        obtain ⟨hnumber, hsize⟩ := recipeOf_size ho
        rw [orderInv_iff] at h ⊢
        obtain ⟨hf, hr⟩ := h
        have perm := joinQueue_perm s.queue o
        have fresh : o.number ∉ s.queue.map Order.number ++ s.active.map Active.number := by
          simpa [State.numberInUse, hnumber] using hfree
        refine ⟨⟨?_, joinQueue_remakes hf.remakes o, ?_, hf.slots, fun x hx => ?_, hf.fits, hf.listed⟩, hr⟩
        · rw [perm.length_eq, List.length_cons]
          simp only [Config.queueSize] at hroom
          omega
        · exact ((perm.map Order.number).append_right _).nodup_iff.2 (List.nodup_cons.2 ⟨fresh, hf.numbers⟩)
        · rcases List.mem_cons.1 (perm.subset hx) with rfl | hx
          · exact hsize
          · exact hf.recipes x hx

theorem WorkKept.cancelWaiting (s : State) (number : Word) (position : Nat) :
    WorkKept s (s.cancelWaiting number position) := by
  have reported : WorkKept s
      ({ s with queue := s.queue.filter fun o => o.number ≠ number }.reportFinish number (.aborted .cancelled)) := by
    refine .ofOrders rfl rfl (fun h => h.congr rfl rfl fun _ => rfl) fun h => ?_
    rw [orderInv_iff] at h ⊢
    obtain ⟨hf, hr⟩ := h
    have shorter : (s.queue.filter fun o => o.number ≠ number).Sublist s.queue := List.filter_sublist
    exact ⟨⟨shorter.length_le.trans hf.size, hf.remakes.sublist shorter,
      hf.numbers.sublist ((shorter.map _).append (List.Sublist.refl _)), hf.slots,
      fun o ho => hf.recipes o (shorter.subset ho), hf.fits, pushFinished_length _ _⟩, hr⟩
  unfold State.cancelWaiting
  dsimp only
  split
  · exact .after (.admissions _) reported
  · exact reported

theorem WorkKept.cancel (s : State) (number : Word) : WorkKept s (s.cancel number).1 := by
  unfold State.cancel
  split
  · exact .cancelWaiting s _ _
  · split
    next a ha =>
      have mem : a ∈ s.active := List.mem_of_find?_eq_some ha
      unfold State.cancelActive
      split
      · exact .refl s
      all_goals exact .abort mem _
    next => exact .refl s

theorem WorkKept.nextPly (s : State) (number : Word) : WorkKept s (s.nextPly number).1 := by
  have calls {a : Active} (ha : a ∈ s.active) (hw : a.isClosing = false) : WorkKept s (s.callNext a).1 := by
    unfold State.callNext
    split
    · exact .refl s
    next n p hnext =>
      split
      · exact .refl s
      next b hb =>
        split
        · exact .refl s
        · refine .recall ha hw fun done q left drawn => ⟨fun m hm => ?_, nofun⟩
          obtain ⟨rfl, rfl⟩ : n = done.length + 1 ∧ p = q := by
            have := Active.next_split drawn.plies drawn.done_taken drawn.next_untaken
            simpa [hnext] using this
          exact ⟨by simpa using hm.symm, by simp [hb]⟩
  unfold State.nextPly
  split
  · exact .refl s
  next a ha =>
    split
    · exact .refl s
    all_goals next hst => exact calls (List.mem_of_find?_eq_some ha) (by simp [Active.isClosing, hst])

theorem WorkKept.taken (s : State) (number : Word) : WorkKept s (s.taken number).1 := by
  have called {a : Active} {n : Nat} {b : Fin 8} (ha : a ∈ s.active) (hn : a.called = some n)
      (hb : a.calledBin = some b) : WorkKept s (s.takeCalled a n b).1 := by
    unfold State.takeCalled
    split
    next c hst => exact .after (.stands (.announce _ _)) (.takeLate ha (Active.isClosing_of_state hst) hb c)
    all_goals exact .after (.stands (.announce _ _)) (.take ha hn hb)
  unfold State.taken
  split
  · exact .refl s
  next a ha =>
    unfold State.takeActive
    split
    next n b hn hb => exact called (List.mem_of_find?_eq_some ha) hn hb
    next => split <;> exact .refl s

theorem WorkKept.uncall (s : State) (number : Word) : WorkKept s (s.uncall number).1 := by
  unfold State.uncall
  split
  · exact .refl s
  next a ha =>
    have mem : a ∈ s.active := List.mem_of_find?_eq_some ha
    split
    · exact .refl s
    next n hn =>
      have cleared (hw : a.isClosing = false) : WorkKept s (s.clearCall a) :=
        .recall mem hw fun done p left drawn => ⟨nofun, fun m hm => ⟨(drawn.withdrawn m hm).1, rfl⟩⟩
      unfold State.uncallActive
      split
      next c hst => exact .settleClosing mem (Active.isClosing_of_state hst) c
      all_goals next hst => exact cleared (by simp [Active.isClosing, hst])

end Sys2Proof.Machine

namespace Sys2Proof.Machine

/-! ## The settlement of the active orders (R94, R136 to R139) -/

theorem count_filterMap_id (l : List (Option (Fin 8))) (i : Fin 8) : (l.filterMap id).count i = l.count (some i) := by
  induction l with
  | nil => rfl
  | cons x l ih => cases x <;> simpa [List.count_cons] using ih

/-- The bins after one of them was emptied (R94). -/
def emptiedBins (bins : Oct Bin) (b : Fin 8) : Oct Bin := bins.set b { bins.get b with stack := [], reserved := 0 }

theorem binsAfter_eq (bins : Oct Bin) (b : Fin 8) (chosen : List (Option (Fin 8))) :
    binsAfter bins b chosen = reserveAll (emptiedBins bins b) (chosen.filterMap id) := by
  refine Oct.ext_get fun i => ?_
  rw [binsAfter, Oct.get_of, reserveAll_get, count_filterMap_id, emptiedBins, Oct.get_set]
  by_cases h : i = b <;> simp [h]

theorem binsAfter_append (bins : Oct Bin) (b : Fin 8) (chosen more : List (Option (Fin 8))) :
    binsAfter bins b (chosen ++ more) = reserveAll (binsAfter bins b chosen) (more.filterMap id) := by
  rw [binsAfter_eq, binsAfter_eq, List.filterMap_append, reserveAll, List.foldl_append]
  rfl

theorem struckPlies_append (b : Fin 8) (l m : List Active) : struckPlies b (l ++ m) = struckPlies b l ++ struckPlies b m :=
  List.flatMap_append

theorem struckPlies_closing {a : Active} (h : a.isClosing = true) (b : Fin 8) : struckPlies b [a] = [] := by
  simp [struckPlies, h]

theorem struckPlies_working {a : Active} (h : a.isClosing = false) (b : Fin 8) :
    struckPlies b [a] = (a.plies.filter fun p => p.heldOn b).map ActivePly.ply := by
  simp [struckPlies, h]

/-- The orders that finish have no struck plies. -/
theorem struckPlies_filter (b : Fin 8) (l : List Active) :
    struckPlies b (l.filter fun a => !a.closedBy b) = struckPlies b l := by
  induction l with
  | nil => rfl
  | cons a l ih =>
    rw [← List.singleton_append (l := l), struckPlies_append, List.filter_append, struckPlies_append, ih]
    cases h : a.closedBy b with
    | false => simp [h]
    | true =>
      have closing : a.isClosing = true := by
        simp only [Active.closedBy, Bool.and_eq_true] at h
        exact h.1
      simp [h, struckPlies, closing]

/-- The newest four of a list of finished orders (R113). -/
def newestFour (l : List Finished) : List Finished := l.drop (l.length - 4)

theorem newestFour_of_length {l : List Finished} (h : l.length ≤ 4) : newestFour l = l := by
  rw [newestFour, Nat.sub_eq_zero_of_le h, List.drop_zero]

theorem pushFinished_newestFour (l : List Finished) (e : Finished) :
    pushFinished (newestFour l) e = newestFour (l ++ [e]) := by
  unfold pushFinished newestFour Config.finishedSize
  by_cases h : l.length ≤ 3
  · simp [show l.length - 4 = 0 by omega, show l.length + 1 - 4 = 0 by omega]
  · rw [List.length_drop, List.length_append, List.length_singleton, ← List.drop_append_of_le_length (by omega),
      List.drop_drop]
    congr 1
    omega

/-- The entries of the orders that the emptying of a bin finishes (R138). -/
def closedEntries (b : Fin 8) (l : List Active) : List Finished :=
  (l.filter (Active.closedBy b)).filterMap fun a => a.cause.map fun c => { number := a.number, outcome := .aborted c }

/-- The event flags that a settlement sets: WITHDRAWN, STALLED and FINISHED. -/
def settlementFlags (b : Fin 8) (l : List Active) (chosen : List (Option (Fin 8))) : List (Port × Nat) :=
  (if l.any (fun a => !a.isClosing && a.calledBin = some b) then [(.press, 3)] else []) ++
  (if none ∈ chosen then [(.press, 1)] else []) ++ if l.any (Active.closedBy b) then [(.press, 4)] else []

theorem mem_settlementFlags {b : Fin 8} {l : List Active} {chosen : List (Option (Fin 8))} {pn : Port × Nat} :
    pn ∈ settlementFlags b l chosen ↔
      ((∃ a ∈ l, a.isClosing = false ∧ a.calledBin = some b) ∧ pn = (.press, 3)) ∨ (none ∈ chosen ∧ pn = (.press, 1)) ∨
        ((∃ a ∈ l, a.closedBy b = true) ∧ pn = (.press, 4)) := by
  simp [settlementFlags]

/-- What the settlement of one more order adds to the flags. -/
theorem mem_settlementFlags_working {b : Fin 8} {l : List Active} {a : Active} {chosen more : List (Option (Fin 8))}
    {stalled : Bool} {pn : Port × Nat} (hw : a.isClosing = false) (stays : a.closedBy b = false)
    (hs : stalled = true ↔ none ∈ more) :
    pn ∈ settlementFlags b l chosen ++ ((if decide (a.calledBin = some b) = true then Event.withdrawn.bits else []) ++
        if stalled = true then Event.stalled.bits else []) ↔
      pn ∈ settlementFlags b (l ++ [a]) (chosen ++ more) := by
  simp only [mem_settlementFlags, List.mem_append, List.mem_singleton, or_and_right, exists_or, exists_eq_left, hw, stays,
    Bool.false_eq_true, or_false, true_and, decide_eq_true_eq, ← hs]
  generalize (∃ x ∈ l, x.closedBy b = true) = closed
  generalize (∃ x ∈ l, x.isClosing = false ∧ x.calledBin = some b) = called
  generalize (none ∈ chosen) = unplanned
  by_cases h1 : a.calledBin = some b <;> cases stalled <;> simp [h1, Event.bits] <;> tauto

/-- The number of the first choice for the plies of the order behind these, and that order as the settlement leaves it. -/
def SettledAs (b : Fin 8) (chosen : List (Option (Fin 8))) (before : List Active) (a x : Active) : Prop :=
  (a.isClosing = true → x = a) ∧
  (a.isClosing = false →
    x = { a with
      plies := x.plies
      called := if a.calledBin = some b then none else a.called
      withdrawn := if a.calledBin = some b then a.called else a.withdrawn
      state := workedOut x.plies (if a.calledBin = some b then none else a.called) } ∧
    x.plies.length = a.plies.length ∧
    ∀ (n : Nat) (p q : ActivePly), a.plies[n]? = some p → x.plies[n]? = some q →
      (p.heldOn b = false → q = p) ∧
      (p.heldOn b = true → ∃ c, q = { p with bin := c } ∧
        chosen[(struckPlies b before).length + ((a.plies.take n).filter fun r => r.heldOn b).length]? = some c))

theorem SettledAs.extend {b : Fin 8} {chosen : List (Option (Fin 8))} {before : List Active} {a x : Active}
    (h : SettledAs b chosen before a x) (more : List (Option (Fin 8))) : SettledAs b (chosen ++ more) before a x := by
  refine ⟨h.1, fun hw => ?_⟩
  obtain ⟨h1, h2, h3⟩ := h.2 hw
  refine ⟨h1, h2, fun n p q hp hq => ⟨(h3 n p q hp hq).1, fun hb => ?_⟩⟩
  obtain ⟨c, hc, hi⟩ := (h3 n p q hp hq).2 hb
  exact ⟨c, hc, by rw [List.getElem?_append_left (List.getElem?_eq_some_iff.1 hi).1, hi]⟩

/-- A state within the settlement after the emptying of bin b of state s: the orders of one list are settled, those of
another wait for it. -/
structure Settling (s : State) (b : Fin 8) (settledOnes waiting : List Active) (chosen : List (Option (Fin 8)))
    (settled : List Active) (u : State) : Prop where
  length : chosen.length = (struckPlies b settledOnes).length
  choices : ∀ n p, (struckPlies b settledOnes)[n]? = some p →
    chosen[n]? = some (plyChoice (binsAfter s.bins b (chosen.take n))
      (availableNow (binsAfter s.bins b (chosen.take n))) p)
  bins : u.bins = binsAfter s.bins b chosen
  active : u.active = settled ++ waiting
  left : settled.length = (settledOnes.filter fun a => !a.closedBy b).length
  each : ∀ before a after, (settledOnes.filter fun a => !a.closedBy b) = before ++ a :: after →
    ∃ x, settled[before.length]? = some x ∧ SettledAs b chosen before a x
  finished : u.finished = newestFour (s.finished ++ closedEntries b settledOnes)
  flags : FlagsRaised s u (settlementFlags b settledOnes chosen)
  ports : SamePortsButFlags s u
  aside : u = { s with bins := u.bins, active := u.active, finished := u.finished, ports := u.ports }
  fits : OrdersFit s.queue (settled ++ waiting) u.finished
  held : ∀ i, (u.bins.get i).reserved = plannedOn settled i + if i = b then 0 else plannedOn waiting i

theorem State.aside_trans {s t u : State}
    (h : t = { s with bins := t.bins, active := t.active, finished := t.finished, ports := t.ports })
    (k : u = { t with bins := u.bins, active := u.active, finished := u.finished, ports := u.ports }) :
    u = { s with bins := u.bins, active := u.active, finished := u.finished, ports := u.ports } := by
  refine k.trans ?_
  conv_lhs => rw [h]

/-- Re-planning keeps the reserved numbers at what is held, but for what was held of the emptied bin (R139). -/
theorem replan_held (b : Fin 8) (ps : List ActivePly) (bins : Oct Bin) (i : Fin 8) :
    ((replan b ps bins).2.1.get i).reserved + (if i = b then 0 else heldCount ps i) =
      (bins.get i).reserved + heldCount (replan b ps bins).1 i := by
  induction ps generalizing bins with
  | nil => simp [replan, heldCount]
  | cons p rest ih =>
    rw [replan]
    split
    next hp =>
      have untaken : p.taken = false := by simp only [Bool.and_eq_true, Bool.not_eq_true'] at hp; exact hp.1
      have on_b : p.bin = some b := by simp only [Bool.and_eq_true, decide_eq_true_eq] at hp; exact hp.2
      have held (c : Option (Fin 8)) : ({ p with bin := c } : ActivePly).heldOn i = decide (c = some i) := by
        simp [ActivePly.heldOn, untaken]
      split
      next c hc =>
        have rest := ih (reserveOne bins c)
        have more : ((reserveOne bins c).get i).reserved = (bins.get i).reserved + if c = i then 1 else 0 := by
          rw [reserveOne, Oct.get_set]
          by_cases h : i = c
          · simp [h]
          · simp [h, Ne.symm h]
        rw [more] at rest
        simp only [heldCount_cons, held, on_b, Option.some.injEq, decide_eq_true_eq]
        by_cases hb : i = b
        · simp only [hb, if_true] at rest ⊢
          omega
        · simp only [hb, Ne.symm hb, if_false] at rest ⊢
          omega
      next hc =>
        have rest := ih bins
        simp only [heldCount_cons, held, on_b, Option.some.injEq, decide_eq_true_eq]
        by_cases hb : i = b
        · simp only [hb, if_true] at rest ⊢
          simpa using rest
        · simp only [hb, Ne.symm hb, if_false] at rest ⊢
          simpa using rest
    next hp =>
      have rest := ih bins
      have other : p.heldOn b = false := by simpa [ActivePly.heldOn] using hp
      simp only [heldCount_cons] at rest ⊢
      by_cases h : i = b
      · subst h
        simpa [other] using rest
      · simp only [h, if_false] at rest ⊢
        omega

/-- The order that a settlement makes of one that is not CLOSING (R136 to R139). -/
def Active.resettled (b : Fin 8) (a : Active) (plies : List ActivePly) : Active :=
  { a with
    plies := plies
    called := if a.calledBin = some b then none else a.called
    withdrawn := if a.calledBin = some b then a.called else a.withdrawn
    state := workedOut plies (if a.calledBin = some b then none else a.called) }

/-- What the settlement of one order does (R136). -/
theorem settleSlot_eq {u : State} {b : Fin 8} {a : Active} (h : u.findSlot a.slot = some a) :
    State.settleSlot b u a.slot =
      if a.isClosing then (if a.closedBy b then (u.leaveSlot a (.aborted (a.cause.getD .timedOut))) else u)
      else
        (({ u.setActive (a.resettled b (replan b a.plies u.bins).1) with bins := (replan b a.plies u.bins).2.1 }.raiseIf
          (decide (a.calledBin = some b)) .withdrawn).raiseIf (replan b a.plies u.bins).2.2 .stalled) := by
  unfold State.settleSlot
  rw [h]
  dsimp only
  split
  next c hc =>
    simp only [Active.isClosing_of_state hc, if_true, Active.closedBy, Bool.true_and, decide_eq_true_eq, Active.cause, hc]
    rfl
  all_goals
    next hst =>
      have working : a.isClosing = false := by simp [Active.isClosing, hst]
      rw [working]
      simp [Active.resettled]

theorem Active.resettled_fits {a : Active} (h : a.fits) (hw : a.isClosing = false) (b : Fin 8) (bins : Oct Bin) :
    (a.resettled b (replan b a.plies bins).1).fits := by
  obtain ⟨done, p, left, drawn⟩ := (Active.fits_iff a).1 h
  obtain ⟨-, taken, kept⟩ := replan_plies b a.plies bins
  refine drawn.replanned hw taken (fun n hn => ?_) fun n hn => ?_
  · split at hn
    · cases hn
    next hb =>
      obtain ⟨h1, h2⟩ := drawn.called n hn
      have next : a.plies[done.length]? = some p := by simp [drawn.plies]
      have free : p.heldOn b = false := by
        rw [(drawn.calledPly hn).2] at hb
        simp [ActivePly.heldOn, hb]
      exact ⟨h1, fun q hq => by rw [kept done.length p q next hq free]; exact h2⟩
  · split at hn
    next hb => exact ⟨(drawn.called n hn).1, by rw [if_pos hb]⟩
    next hb => exact (drawn.withdrawn n hn).imp_right fun hc => by rw [if_neg hb]; exact hc

theorem append_cons_eq_append_singleton {l before after : List Active} {a x : Active} (h : l ++ [a] = before ++ x :: after) :
    (before = l ∧ x = a ∧ after = []) ∨ ∃ after', l = before ++ x :: after' := by
  rcases List.eq_nil_or_concat after with rfl | ⟨init, y, rfl⟩
  · obtain ⟨h1, h2⟩ := List.append_inj' h rfl
    exact .inl ⟨h1.symm, by simpa using h2.symm, rfl⟩
  · refine .inr ⟨init, ?_⟩
    rw [List.concat_eq_append, ← List.cons_append, ← List.append_assoc] at h
    exact (List.append_inj' h rfl).1

/-- A CLOSING order whose called ply was on the bin finishes (R138). -/
theorem Settling.close {s u : State} {b : Fin 8} {done rest settled : List Active} {chosen : List (Option (Fin 8))}
    {a : Active} (h : Settling s b done (a :: rest) chosen settled u) {c : AbortCause} (hc : a.state = .closing c)
    (hb : a.calledBin = some b) :
    Settling s b (done ++ [a]) rest chosen settled (u.leaveSlot a (.aborted c)) := by
  have closing := Active.isClosing_of_state hc
  have closed : a.closedBy b = true := by simp [Active.closedBy, closing, hb]
  have same_left : ((done ++ [a]).filter fun a => !a.closedBy b) = done.filter fun a => !a.closedBy b := by
    simp [closed]
  have struck : struckPlies b (done ++ [a]) = struckPlies b done := by
    rw [struckPlies_append, struckPlies_closing closing, List.append_nil]
  have entries : closedEntries b (done ++ [a]) = closedEntries b done ++ [{ number := a.number, outcome := .aborted c }] := by
    simp [closedEntries, closed, Active.cause, hc]
  have fits := h.fits
  have active : (u.leaveSlot a (.aborted c)).active = settled ++ rest := by
    rw [State.leaveSlot, State.reportFinish_active]
    show u.active.filter _ = _
    rw [h.active]
    exact filter_slot_split fits.others
  have finished : (u.leaveSlot a (.aborted c)).finished = newestFour (s.finished ++ closedEntries b (done ++ [a])) := by
    show pushFinished u.finished _ = _
    rw [h.finished, pushFinished_newestFour, entries, List.append_assoc]
  have raised : FlagsRaised u (u.leaveSlot a (.aborted c)) [(.press, 4)] :=
    State.raise_raised { u.freeSlot a.slot with finished := _ } .finished
  refine ⟨by rw [struck]; exact h.length, by rw [struck]; exact h.choices, h.bins, active, by rw [same_left]; exact h.left,
    by rw [same_left]; exact h.each, finished, ?_, ?_, ?_, fits.leave ?_, fun i => ?_⟩
  · refine (h.flags.trans raised).congr fun pn => ?_
    simp only [settlementFlags, List.any_append, List.any_cons, closing, closed, List.any_nil, Bool.not_true, Bool.false_and,
      Bool.or_false, Bool.or_true, if_true, List.mem_append, List.mem_singleton]
    split <;> simp <;> tauto
  · exact h.ports.trans (State.raise_same { u.freeSlot a.slot with finished := _ } .finished)
  · have aside := h.aside
    rw [State.leaveSlot, State.reportFinish, State.raise_ports_eq]
    conv_lhs => rw [aside]
    rfl
  · show (pushFinished _ _).length ≤ 4
    exact pushFinished_length _ _
  · have held := h.held i
    rw [plannedOn_cons, Active.fits.closingHeld (fits.fits a (by simp)) closing, hb] at held
    rw [State.leaveSlot_bins, held]
    by_cases hi : i = b
    · simp [hi]
    · simp [hi, Ne.symm hi]

/-- Another CLOSING order is as it was (R138). -/
theorem Settling.pass {s u : State} {b : Fin 8} {done rest settled : List Active} {chosen : List (Option (Fin 8))}
    {a : Active} (h : Settling s b done (a :: rest) chosen settled u) (hc : a.isClosing = true)
    (hb : a.calledBin ≠ some b) :
    Settling s b (done ++ [a]) rest chosen (settled ++ [a]) u := by
  have stays : a.closedBy b = false := by simp [Active.closedBy, hb]
  have more_left : ((done ++ [a]).filter fun a => !a.closedBy b) = (done.filter fun a => !a.closedBy b) ++ [a] := by
    simp [stays]
  have struck : struckPlies b (done ++ [a]) = struckPlies b done := by
    rw [struckPlies_append, struckPlies_closing hc, List.append_nil]
  refine ⟨by rw [struck]; exact h.length, by rw [struck]; exact h.choices, h.bins, by simpa using h.active,
    by simp [more_left, h.left], fun before x after hx => ?_, ?_, ?_, h.ports, h.aside, by simpa using h.fits, fun i => ?_⟩
  · rw [more_left] at hx
    obtain ⟨rfl, rfl, -⟩ | ⟨after', hx⟩ := append_cons_eq_append_singleton hx
    · refine ⟨x, ?_, fun _ => rfl, fun hw => absurd (hc.symm.trans hw) (by simp)⟩
      rw [← h.left, List.getElem?_append_right (Nat.le_refl _), Nat.sub_self]
      rfl
    · obtain ⟨y, hy, hs⟩ := h.each before x after' hx
      exact ⟨y, by rw [List.getElem?_append_left (List.getElem?_eq_some_iff.1 hy).1, hy], hs⟩
  · rw [h.finished]
    simp [closedEntries, stays]
  · refine h.flags.congr fun pn => ?_
    simp [settlementFlags, hc, stays]
  · have held := h.held i
    rw [plannedOn_cons, Active.fits.closingHeld (h.fits.fits a (by simp)) hc] at held
    rw [held, plannedOn_append, plannedOn_cons, plannedOn_nil, Active.fits.closingHeld (h.fits.fits a (by simp)) hc]
    by_cases hi : i = b
    · simp [hi, hb]
    · simp [hi]
      omega

/-- An order that is not CLOSING is planned anew where it held the bin (R136, R137, R139). -/
theorem Settling.replan {s u : State} {b : Fin 8} {done rest settled : List Active} {chosen : List (Option (Fin 8))}
    {a : Active} (h : Settling s b done (a :: rest) chosen settled u) (hw : a.isClosing = false) :
    ∃ more, Settling s b (done ++ [a]) rest (chosen ++ more)
      (settled ++ [a.resettled b (Machine.replan b a.plies u.bins).1])
      (({ u.setActive (a.resettled b (Machine.replan b a.plies u.bins).1) with
          bins := (Machine.replan b a.plies u.bins).2.1 }.raiseIf
        (decide (a.calledBin = some b)) .withdrawn).raiseIf (Machine.replan b a.plies u.bins).2.2 .stalled) := by
  obtain ⟨more, hlen, hchoices, hlength, hplies, hbins, hnone⟩ := replan_spec b a.plies u.bins
  generalize hr : Machine.replan b a.plies u.bins = r at *
  have fits' : (a.resettled b r.1).fits := by
    rw [← hr]
    exact Active.resettled_fits (h.fits.fits a (by simp)) hw b u.bins
  have stays : a.closedBy b = false := by simp [Active.closedBy, hw]
  have more_left : ((done ++ [a]).filter fun a => !a.closedBy b) = (done.filter fun a => !a.closedBy b) ++ [a] := by
    simp [stays]
  have struck : struckPlies b (done ++ [a]) = struckPlies b done ++ (a.plies.filter fun p => p.heldOn b).map ActivePly.ply := by
    rw [struckPlies_append, struckPlies_working hw]
  have bins : r.2.1 = binsAfter s.bins b (chosen ++ more) := by rw [hbins, h.bins, binsAfter_append]
  generalize hv : ({ u.setActive (a.resettled b r.1) with bins := r.2.1 } : State) = v
  have active : v.active = settled ++ a.resettled b r.1 :: rest := by
    rw [← hv]
    show u.active.map _ = _
    rw [h.active]
    exact map_slot_split h.fits.others rfl
  have raised := (v.raiseIf_raised (decide (a.calledBin = some b)) .withdrawn).trans
    (State.raiseIf_raised _ r.2.2 .stalled)
  have same := (v.raiseIf_same (decide (a.calledBin = some b)) .withdrawn).trans (State.raiseIf_same _ r.2.2 .stalled)
  refine ⟨more, ?_, fun n p hp => ?_, ?_, ?_, ?_, fun before x after hx => ?_, ?_, ?_, ?_, ?_, ?_, fun i => ?_⟩
  · rw [struck, List.length_append, List.length_append, h.length, hlen, List.length_map]
  · rw [struck] at hp
    rcases Nat.lt_or_ge n chosen.length with hn | hn
    · rw [List.getElem?_append_left (by rw [← h.length]; exact hn)] at hp
      rw [List.getElem?_append_left hn, List.take_append_of_le_length (Nat.le_of_lt hn)]
      exact h.choices n p hp
    · obtain ⟨m, rfl⟩ := Nat.exists_eq_add_of_le hn
      rw [List.getElem?_append_right (by rw [← h.length]; exact hn), ← h.length, Nat.add_sub_cancel_left,
        List.getElem?_map] at hp
      obtain ⟨q, hq, rfl⟩ := Option.map_eq_some_iff.1 hp
      rw [List.getElem?_append_right hn, Nat.add_sub_cancel_left, List.take_length_add_append, binsAfter_append, ← h.bins]
      exact hchoices m q hq
  · rw [State.raiseIf_bins, State.raiseIf_bins, ← hv]
    exact bins
  · rw [State.raiseIf_active, State.raiseIf_active, active]
    simp
  · simp [more_left, h.left]
  · rw [more_left] at hx
    obtain ⟨rfl, rfl, -⟩ | ⟨after', hx⟩ := append_cons_eq_append_singleton hx
    · refine ⟨x.resettled b r.1, ?_, fun hcl => absurd (hw.symm.trans hcl) (by simp), fun _ => ⟨rfl, hlength, ?_⟩⟩
      · rw [← h.left, List.getElem?_append_right (Nat.le_refl _), Nat.sub_self]
        rfl
      · intro n p q hp hq
        have planned := hplies n p hp
        rw [show (x.resettled b r.1).plies = r.1 from rfl, planned, Option.some.injEq] at hq
        subst hq
        refine ⟨fun hf => by simp [hf], fun ht => ⟨(more[((x.plies.take n).filter fun q => q.heldOn b).length]?).join,
          by simp [ht], ?_⟩⟩
        have before_n : ((x.plies.take n).filter fun q => q.heldOn b).length < more.length := by
          rw [hlen]
          have split : x.plies = x.plies.take n ++ p :: x.plies.drop (n + 1) := by
            obtain ⟨hn, hp⟩ := List.getElem?_eq_some_iff.1 hp
            rw [← hp, List.cons_getElem_drop_succ, List.take_append_drop]
          conv_rhs => rw [split, List.filter_append, List.filter_cons_of_pos (by simpa using ht)]
          simp
        rw [struckPlies_filter, ← h.length, List.getElem?_append_right (by omega), Nat.add_sub_cancel_left,
          List.getElem?_eq_getElem before_n]
        rfl
    · obtain ⟨y, hy, hs⟩ := h.each before x after' hx
      exact ⟨y, by rw [List.getElem?_append_left (List.getElem?_eq_some_iff.1 hy).1, hy], hs.extend more⟩
  · rw [State.raiseIf_finished, State.raiseIf_finished, ← hv]
    show u.finished = _
    rw [h.finished]
    simp [closedEntries, stays]
  · have from_u : FlagsRaised u _ _ := fun p n hn => (raised p n hn).trans (by rw [← hv]; rfl)
    refine (h.flags.trans from_u).congr fun pn => ?_
    exact mem_settlementFlags_working hw stays hnone
  · refine h.ports.trans fun p => (same p).trans ?_
    rw [← hv]
    rfl
  · refine State.aside_trans h.aside ?_
    rw [State.raiseIf_ports_eq, State.raiseIf_ports_eq, ← hv]
    rfl
  · rw [State.raiseIf_finished, State.raiseIf_finished, ← hv]
    simpa using h.fits.replace (a' := a.resettled b r.1) rfl rfl fits'
  · rw [State.raiseIf_bins, State.raiseIf_bins, ← hv, plannedOn_append, plannedOn_cons, plannedOn_nil]
    have held := h.held i
    have now := replan_held b a.plies u.bins i
    rw [hr] at now
    rw [plannedOn_cons] at held
    show (r.2.1.get i).reserved = _
    rw [show (a.resettled b r.1).plies = r.1 from rfl]
    split at held <;> simp_all; omega

/-- The settlement goes on over the orders that wait for it. -/
theorem Settling.run {s u : State} {b : Fin 8} {done rest settled : List Active} {chosen : List (Option (Fin 8))}
    (h : Settling s b done rest chosen settled u) :
    ∃ chosen' settled', Settling s b (done ++ rest) [] chosen' settled'
      ((rest.map Active.slot).foldl (State.settleSlot b) u) := by
  induction rest generalizing done chosen settled u with
  | nil => exact ⟨chosen, settled, by simpa using h⟩
  | cons a rest ih =>
    have found : u.findSlot a.slot = some a := by
      unfold State.findSlot
      rw [h.active]
      exact find_active_split (fun x hx => by simpa using h.fits.others x hx) (by simp)
    rw [List.map_cons, List.foldl_cons, settleSlot_eq found, List.append_cons]
    cases hc : a.isClosing with
    | false =>
      obtain ⟨more, next⟩ := h.replan hc
      exact ih next
    | true =>
      obtain ⟨c, hst⟩ : ∃ c, a.state = .closing c := by
        unfold Active.isClosing at hc
        split at hc
        next c hst => exact ⟨c, hst⟩
        all_goals cases hc
      by_cases hb : a.calledBin = some b
      · have closed : a.closedBy b = true := by simp [Active.closedBy, hc, hb]
        simp only [closed, if_true, Active.cause, hst, Option.getD_some]
        exact ih (h.close hst hb)
      · have stays : a.closedBy b = false := by simp [Active.closedBy, hb]
        simp only [stays, Bool.false_eq_true, if_false, if_true]
        exact ih (h.pass hc hb)

/-- The state after a bin was emptied, before the settlement (R94). -/
def State.discardStack (s : State) (b : Fin 8) : State := { s with bins := emptiedBins s.bins b }

theorem Settling.start {s : State} (h : OrderInv s) (b : Fin 8) :
    Settling s b [] s.active [] [] (s.discardStack b) := by
  obtain ⟨fits, reserved⟩ := (orderInv_iff s).1 h
  refine ⟨rfl, by simp [struckPlies], ?_, rfl, rfl, by simp, ?_, ?_, fun p => rfl, rfl, fits, fun i => ?_⟩
  · rw [binsAfter_eq]
    rfl
  · simp [closedEntries, newestFour_of_length fits.listed, State.discardStack]
  · intro p n _
    simp [settlementFlags]
    rfl
  · rw [plannedOn_nil, Nat.zero_add, ← reserved i, State.discardStack, emptiedBins]
    dsimp only
    rw [Oct.get_set]
    split <;> rfl

/-- What the emptying of a bin makes of the active orders (R94, R136 to R139), and that it keeps their invariant. -/
theorem State.settlement_settled {s : State} (h : OrderInv s) (b : Fin 8) :
    Settled s ((s.discardStack b).settlement b) b ∧ OrderInv ((s.discardStack b).settlement b) := by
  obtain ⟨chosen, settled, final⟩ := (Settling.start h b).run
  rw [List.nil_append] at final
  replace final : Settling s b s.active [] chosen settled ((s.discardStack b).settlement b) := final
  have active := final.active
  rw [List.append_nil] at active
  refine ⟨⟨chosen, final.length, final.choices, final.bins, by rw [active]; exact final.left, fun before a after hs => ?_,
    final.finished, final.flags, final.ports, final.aside⟩, (orderInv_iff _).2 ⟨?_, fun i => ?_⟩⟩
  · obtain ⟨x, hx, hs⟩ := final.each before a after hs
    exact ⟨x, by rw [active]; exact hx, hs⟩
  · have fits := final.fits
    rw [List.append_nil, ← active] at fits
    have queue := congrArg State.queue final.aside
    exact queue ▸ fits
  · have held := final.held i
    rw [active]
    simpa [plannedOn_nil] using held

/-! ## Emptying keeps the invariants (R94, R95) -/

theorem BinInv.settlement {s : State} (h : BinInv s) (b : Fin 8) : BinInv (s.settlement b) := by
  refine State.settlement_induct (P := BinInv) (fun u k hu => ?_) h
  unfold State.settleSlot
  split
  · exact hu
  next a _ =>
    split
    · split
      · exact hu.leaveSlot _ _
      · exact hu
    all_goals
      refine BinInv.congr (s := { u with bins := (Machine.replan b a.plies u.bins).2.1 }) (hu.replan b a.plies) ?_ ?_ ?_ <;>
        simp

theorem State.settlement_table (s : State) (b : Fin 8) : (s.settlement b).table = s.table ∧ (s.settlement b).ram = s.ram := by
  refine State.settlement_induct (P := fun u => u.table = s.table ∧ u.ram = s.ram) (fun u k hu => ?_) ⟨rfl, rfl⟩
  unfold State.settleSlot
  split
  · exact hu
  next a _ =>
    split
    · split
      · exact hu
      · exact hu
    all_goals simpa using hu

theorem WorkKept.emptyBin (s : State) (b : Fin 8) : WorkKept s (s.emptyBin b) := by
  have settled : WorkKept s ((s.discardStack b).settlement b) := by
    obtain ⟨table, ram⟩ := (s.discardStack b).settlement_table b
    refine .ofOrders table ram (fun h => ?_) fun ho => (s.settlement_settled ho b).2
    refine BinInv.settlement ?_ b
    rw [binInv_iff] at h ⊢
    intro c
    simp only [State.discardStack, emptiedBins, Oct.get_set]
    split
    next hc => subst hc; exact (h c).setStack (List.nil_sublist _) (Nat.zero_le _)
    next => exact h c
  show WorkKept s (if ((s.discardStack b).settlement b).active.length < _ then _ else _)
  split
  · exact settled.trans (.admissions _)
  · exact settled

theorem WorkKept.emptyByLine (s : State) (b : Fin 8) : WorkKept s (s.emptyByLine b) := by
  unfold State.emptyByLine
  split
  · exact .refl s
  · exact .emptyBin s b

theorem WorkKept.emptied (s : State) (bin : Byte) : WorkKept s (s.emptied bin).1 := by
  unfold State.emptied
  split
  · exact .refl s
  · split
    · exact .refl s
    · exact .after (.stands (.announce _ _)) (.emptyBin s _)

theorem WorkKept.lineEdge (s : State) (k : Fin 8) : WorkKept s (s.lineEdge k) := by
  have edge (l : Line) : WorkKept s { s with lines := s.lines.set k l } := .stands (.aside rfl rfl rfl rfl rfl rfl)
  unfold State.lineEdge
  dsimp only
  split
  · exact (edge _).trans (.emptyByLine _ _)
  · exact edge _

end Sys2Proof.Machine

namespace Sys2Proof.Machine

/-! ## Every step keeps the bins and the orders -/

theorem Active.tick_fits {a : Active} (h : a.fits) : a.tick.fits := by
  obtain ⟨size, order, left, called, withdrawn, closing, working⟩ := h
  refine ⟨size, order, left, called, withdrawn, fun hc => ?_, fun hw => ?_⟩
  · obtain ⟨h1, h2, h3⟩ := closing hc
    exact ⟨h1, by simp [Active.tick, h2], h3⟩
  · obtain ⟨h1, h2⟩ := working hw
    exact ⟨by simpa [Active.tick] using h1, h2⟩

theorem plannedOn_tick (l : List Active) (b : Fin 8) : plannedOn (l.map Active.tick) b = plannedOn l b := by
  rw [plannedOn, List.flatMap_map]
  rfl

theorem OrdersFit.tick {queue : List Order} {active : List Active} {finished : List Finished}
    (h : OrdersFit queue active finished) : OrdersFit queue (active.map Active.tick) finished := by
  obtain ⟨size, remakes, numbers, slots, recipes, fits, listed⟩ := h
  refine ⟨size, remakes, ?_, ?_, recipes, fun a ha => ?_, listed⟩
  · rw [List.map_map]
    exact numbers
  · rw [List.pairwise_map]
    exact slots
  · obtain ⟨x, hx, rfl⟩ := List.mem_map.1 ha
    exact Active.tick_fits (fits x hx)

theorem WorkKept.advance (s : State) : WorkKept s s.advance := by
  refine ⟨fun ht => (SameComing.tick s.table ht).1, id, fun ht _ hb => hb.congr rfl rfl (SameComing.tick s.table ht).2,
    fun ho => ?_⟩
  obtain ⟨fits, reserved⟩ := (orderInv_iff s).1 ho
  exact (orderInv_iff _).2 ⟨fits.tick, fun b => (reserved b).trans (plannedOn_tick _ b).symm⟩

theorem WorkStands.enqueue (s : State) (c : Instr) : WorkStands s (s.enqueue c) :=
  .aside rfl rfl rfl rfl rfl rfl

theorem BusEffect.stands {s t : State} (h : BusEffect s t) : WorkStands s t := by
  obtain rfl | ⟨b, rfl, -⟩ | ⟨c, rfl⟩ := h
  · exact .refl t
  all_goals exact .aside rfl rfl rfl rfl rfl rfl

theorem WorkStands.riseSelect (s : State) (p : Port) : WorkStands s (s.riseSelect p) := by
  unfold State.riseSelect
  dsimp only
  split
  · split
    · exact .enqueue s _
    · exact .setPort s p _
  all_goals exact .setPort s p _

theorem WorkKept.takeInput (s : State) (i : Input) : WorkKept s (s.takeInput i) := by
  have aside {t : State} (h : WorkStands s t) : WorkKept s t := .stands h
  cases i with
  | scanChar c =>
    unfold State.takeInput State.receiveChar
    dsimp only
    split
    · exact .refl s
    · exact aside (.aside rfl rfl rfl rfl rfl rfl)
  | scanIdle =>
    unfold State.takeInput State.endMessage
    dsimp only
    split
    · exact .refl s
    · exact aside (.after (.enqueue _ _) (.aside rfl rfl rfl rfl rfl rfl))
  | selectFall p => exact aside (.enqueue s _)
  | clockRise p bit => exact aside (.setPort s p _)
  | clockFall p => exact aside (.setPort s p _)
  | selectRise p => exact aside (.riseSelect s p)
  | pin k high =>
    unfold State.takeInput State.setPin
    dsimp only
    split
    · exact .refl s
    · exact aside (.aside rfl rfl rfl rfl rfl rfl)
  | lrstFall periods =>
    unfold State.takeInput
    dsimp only
    split
    · exact aside (.enqueue s _)
    · exact .refl s
  | lrstRise => exact aside (.aside rfl rfl rfl rfl rfl rfl)
  | porstFall => exact aside (.enqueue s _)
  | porstRise => exact aside (.enqueue s _)
  | busAck acked => exact aside (s.busAck_effect acked).stands
  | busData b => exact aside (s.busData_effect b).stands
  | ms =>
    unfold State.takeInput State.passMs
    dsimp only
    split
    · exact .refl s
    · exact (WorkKept.advance s).trans (.stands (.aside rfl rfl rfl rfl rfl rfl))

/-- An event keeps what its effect on a part out of power-on reset keeps. -/
theorem powered_work {f : State → State} {s t : State} (hf : WorkKept s (f s)) (h : powered s f = .next t) :
    WorkKept s t := by
  by_cases hl : s.porstLow = true
  · rw [powered_held hl] at h
    cases h
    exact .refl s
  · rw [powered_next (by simpa using hl)] at h
    cases h
    exact hf

/-- A station command keeps what its owning block's decision keeps: the ports hold nothing of the bins and orders. -/
theorem station_work {p : Port} {tag : Byte} {right acts : Bool} {body : State → State × Option Reply} {s t : State}
    (hb : ∀ u : State, WorkKept u (body u).1) (h : station p tag right acts body s = .next t) : WorkKept s t := by
  by_cases hl : s.porstLow = true
  · rw [station, powered_held hl] at h
    cases h
    exact .refl s
  · rw [station_next (by simpa using hl)] at h
    cases h
    have accepted : WorkKept s (s.acceptFrame p) := .stands (.setPort s p _)
    have answer (u : State) (r : Reply) : WorkKept u (u.placeAnswer p tag r) := .stands (.setPort u p _)
    unfold dispatched
    split
    · exact accepted.trans (answer _ _)
    · split
      · exact accepted.trans (answer _ _)
      · have kept := accepted.trans (hb (s.acceptFrame p))
        unfold State.answered
        split
        · exact kept.trans (answer _ _)
        · exact kept

theorem exec_work {c : Instr} {s t : State} (h : exec c s = .next t) : WorkKept s t := by
  have same (u : State) : WorkKept u u := .refl u
  unfold exec at h
  cases c with
  | defect lane tag zone type size => exact powered_work (.stands (.message s _ _ _)) h
  | sample lane tag zone raw thickness temp => exact powered_work (.stands (.message s _ _ _)) h
  | laneDone lane tag status => exact powered_work (.stands (.message s _ _ _)) h
  | badMessage =>
    refine powered_work (.stands ?_) h
    exact .after (.raise _ .badMessage) (.aside rfl rfl rfl rfl rfl rfl)
  | scanWindowExpiry tag =>
    refine powered_work ?_ h
    split
    next e he =>
      split
      next hs => exact .stands (.expireWindow he hs)
      next => exact same s
    next => exact same s
  | gradingComplete =>
    refine powered_work ?_ h
    split
    next e he => exact .stands (.complete he)
    next => exact same s
  | holdTimerExpiry slot =>
    refine powered_work ?_ h
    split
    · exact same s
    next a ha =>
      have mem : a ∈ s.active := List.mem_of_find?_eq_some ha
      split
      · exact same s
      all_goals split; exacts [.abort mem _, same s]
  | lineEdge line =>
    refine powered_work ?_ h
    rcases s.lineChange_cases line true fun s => s.announce (s.lineEdge line) with ⟨-, h⟩ | ⟨-, -, h⟩ | ⟨-, -, h⟩ <;> rw [h]
    · exact .stands (.aside rfl rfl rfl rfl rfl rfl)
    · exact .after (.stands (.announce _ _)) (.lineEdge s line)
    · exact same s
  | debouncedLevelInactive line =>
    refine powered_work ?_ h
    rcases s.lineChange_cases line false fun s => { s with
      lines := s.lines.set line ((s.lines.get line).settle false (s.ram.lineInvert.get line)) } with
      ⟨-, h⟩ | ⟨-, -, h⟩ | ⟨-, -, h⟩ <;> rw [h]
    · exact .stands (.aside rfl rfl rfl rfl rfl rfl)
    · exact .stands (.aside rfl rfl rfl rfl rfl rfl)
    · exact same s
  | selectFall port =>
    cases h
    split <;> exact .stands (.setPort s port _)
  | frameRejected port kind => exact powered_work (.stands (.setPort s port _)) h
  | selectTimeout port => exact powered_work (.stands (.setPort s port _)) h
  | unknownCommand port code tag => exact powered_work (.stands (.after (.setPort _ port _) (.setPort s port _))) h
  | fetch port tag => exact station_work same h
  | status port tag => exact station_work same h
  | readEvents port tag clear => exact station_work (fun u => .stands (.setPort u port _)) h
  | setAttnMask port tag mask => exact station_work (fun u => .stands (.setPort u port _)) h
  | readBin port tag bin depth =>
    refine station_work (fun u => ?_) h
    unfold State.readBin
    split
    · split <;> exact same u
    · exact same u
  | readSheet port tag sheet part selector => exact station_work same h
  | portReset port tag => exact station_work (fun u => .stands (.setPort u port _)) h
  | start port tag =>
    refine station_work (fun u => ?_) h
    unfold State.start
    split
    · exact same u
    · split
      · exact same u
      · split
        · exact .stands (.aside rfl rfl rfl rfl rfl rfl)
        · exact same u
  | stop port tag => exact station_work (fun u => .stands (.aside rfl rfl rfl rfl rfl rfl)) h
  | setSetting port tag key value => exact station_work (fun u => .setSetting u key value) h
  | getSetting port tag key => exact station_work same h
  | loadSettings port tag =>
    refine station_work (fun u => ?_) h
    unfold State.loadSettings
    split
    · exact same u
    · split
      · exact same u
      · exact .stands (.aside rfl rfl rfl rfl rfl rfl)
  | storeSettings port tag =>
    refine station_work (fun u => ?_) h
    unfold State.storeSettings
    split
    · exact same u
    · exact .stands (.aside rfl rfl rfl rfl rfl rfl)
  | binState port tag bin requested => exact station_work (fun u => .binState u bin requested) h
  | laneUp port tag lane =>
    refine station_work (fun u => ?_) h
    unfold State.laneUp
    split
    · exact .stands (.returnLane u _)
    · exact same u
  | readFaults port tag clear => exact station_work (fun u => .stands (.clearFaults u clear)) h
  | readLines port tag clear => exact station_work (fun u => .stands (.aside rfl rfl rfl rfl rfl rfl)) h
  | resetLine port tag => exact station_work (fun u => .lineReset u) h
  | whereTo port tag => exact station_work (fun u => .after (.stands (.announce _ _)) (.whereNext u)) h
  | dropped port tag sheet => exact station_work (fun u => .dropped u sheet) h
  | divert port tag sheet => exact station_work (fun u => .divert u sheet) h
  | emptied port tag bin => exact station_work (fun u => .emptied u bin) h
  | order port tag number cls count plies => exact station_work (fun u => .takeOrder u number cls count plies) h
  | cancel port tag number => exact station_work (fun u => .cancel u number) h
  | nextPly port tag number => exact station_work (fun u => .nextPly u number) h
  | taken port tag number => exact station_work (fun u => .taken u number) h
  | uncall port tag number => exact station_work (fun u => .uncall u number) h
  | orderStatus port tag number => exact station_work same h
  | lineReset stays =>
    cases h
    split
    · exact .stands (.aside rfl rfl rfl rfl rfl rfl)
    · exact (WorkKept.lineReset s).trans (.stands (.aside rfl rfl rfl rfl rfl rfl))
  | powerOnReset =>
    cases h
    exact .powerOn s
  | powerOnLoad =>
    cases h
    split
    · exact .powerUp s
    · exact same s
  | loadEnd read =>
    refine powered_work ?_ h
    split
    · exact .endLoad s read
    · exact same s
  | storeEnd result =>
    refine powered_work ?_ h
    split
    · exact .stands (.endStore s result)
    · exact same s

theorem step_work {s t : State} (h : step s = .next t) : WorkKept s t := by
  have lists {u : State} (h1 : u.bins = s.bins) (h2 : u.ram = s.ram) (h3 : u.queue = s.queue) (h4 : u.active = s.active)
      (h5 : u.finished = s.finished) (h6 : u.table = s.table) : WorkKept s u := .stands (.aside h1 h2 h3 h4 h5 h6)
  unfold step at h
  split at h
  next c rest _ => exact .after (exec_work h) (lists rfl rfl rfl rfl rfl rfl)
  next =>
    cases h
    unfold State.idleStep
    split
    next i rest _ => exact .after (.takeInput _ i) (lists rfl rfl rfl rfl rfl rfl)
    next => exact .refl s

/-- Settles O57: every operation of a step keeps the bins where the tags of the table differ and the settings fit. -/
theorem stepKeepsTheBins : Obligations.StepKeepsTheBins := by
  intro s t htable hsettings hbins h
  exact (step_work h).bins htable.2.1 hsettings hbins

/-- Settles O58: every operation of a step keeps the orders. -/
theorem stepKeepsTheOrders : Obligations.StepKeepsTheOrders := by
  intro s t horders h
  exact (step_work h).orders horders

end Sys2Proof.Machine

namespace Sys2Proof.Machine

/-! ## What each operation does to the event flags and to the conditions they tell of (R76, R167, R171, R185) -/

/-- The move of the pending faults that FAULT_RAISED tells of: `up` where kinds become pending, each newly pending one
with the flag, and otherwise where kinds cease to be pending, without it. -/
def FaultsMoved (up : Bool) (s t : State) : Prop :=
  if up = true then
    (∀ k, (s.faults.get k).pending = true → (t.faults.get k).pending = true) ∧
    ((t.port .line).flags.getLsbD 6 = true ↔ (s.port .line).flags.getLsbD 6 = true ∨
      ∃ k, (t.faults.get k).pending = true ∧ (s.faults.get k).pending = false)
  else
    (∀ k, (t.faults.get k).pending = true → (s.faults.get k).pending = true) ∧
    (t.port .line).flags.getLsbD 6 = (s.port .line).flags.getLsbD 6

theorem FaultsMoved.same {s t : State} (h : ∀ k, (t.faults.get k).pending = (s.faults.get k).pending)
    (hf : (t.port .line).flags.getLsbD 6 = (s.port .line).flags.getLsbD 6) (up : Bool) : FaultsMoved up s t := by
  unfold FaultsMoved
  rw [hf]
  cases up <;> simp [h]

theorem FaultsMoved.trans {up : Bool} {s t u : State} (h : FaultsMoved up s t) (k : FaultsMoved up t u) :
    FaultsMoved up s u := by
  cases up with
  | false =>
    simp only [FaultsMoved, Bool.false_eq_true, if_false] at h k ⊢
    exact ⟨fun j hj => h.1 j (k.1 j hj), k.2.trans h.2⟩
  | true =>
    simp only [FaultsMoved, if_true] at h k ⊢
    refine ⟨fun j hj => k.1 j (h.1 j hj), ?_⟩
    rw [k.2, h.2, or_assoc]
    refine or_congr_right ⟨?_, ?_⟩
    · rintro (⟨j, h1, h2⟩ | ⟨j, h1, h2⟩)
      · exact ⟨j, k.1 j h1, h2⟩
      · refine ⟨j, h1, ?_⟩
        by_contra hs
        rw [h.1 j (by simpa using hs)] at h2
        cases h2
    · rintro ⟨j, h1, h2⟩
      cases ht : (t.faults.get j).pending with
      | true => exact .inl ⟨j, ht, h2⟩
      | false => exact .inr ⟨j, h1, ht⟩

/-- FAULT_RAISED tells of the kinds that became pending. -/
theorem FaultsMoved.told {up : Bool} {s t : State} (h : FaultsMoved up s t) :
    (t.port .line).flags.getLsbD 6 = true ↔ (s.port .line).flags.getLsbD 6 = true ∨
      ∃ k, (t.faults.get k).pending = true ∧ (s.faults.get k).pending = false := by
  cases up with
  | true => exact h.2
  | false =>
    obtain ⟨fewer, flag⟩ := h
    rw [flag]
    refine ⟨.inl, fun h => h.resolve_right ?_⟩
    rintro ⟨k, h1, h2⟩
    rw [fewer k h1] at h2
    cases h2

/-- An operation that clears no flag and raises neither HOLD_CHANGED nor BIN_CHANGED; it changes no bin's state, and what
it does to the pending faults FAULT_RAISED tells. -/
structure Silent (up : Bool) (s t : State) : Prop where
  kept : ∀ p n, (s.port p).flags.getLsbD n = true → (t.port p).flags.getLsbD n = true
  hold : (t.port .line).flags.getLsbD 4 = (s.port .line).flags.getLsbD 4
  changed : ∀ p, p ≠ .press → (t.port p).flags.getLsbD 7 = (s.port p).flags.getLsbD 7
  modes : ∀ b, (t.bins.get b).mode = (s.bins.get b).mode
  faults : FaultsMoved up s t

theorem Silent.trans {up : Bool} {s t u : State} (h : Silent up s t) (k : Silent up t u) : Silent up s u :=
  ⟨fun p n hn => k.kept p n (h.kept p n hn), k.hold.trans h.hold, fun p hp => (k.changed p hp).trans (h.changed p hp),
    fun b => (k.modes b).trans (h.modes b), h.faults.trans k.faults⟩

/-- `Silent.trans` with the later part first. -/
theorem Silent.after {up : Bool} {s t u : State} (k : Silent up t u) (h : Silent up s t) : Silent up s u := h.trans k

/-- A change aside from the flags, the bins' states and the pending faults. -/
theorem Silent.aside {s t : State} (hp : ∀ p, (t.port p).flags = (s.port p).flags)
    (hb : ∀ b, (t.bins.get b).mode = (s.bins.get b).mode)
    (hf : ∀ k, (t.faults.get k).pending = (s.faults.get k).pending) (up : Bool) : Silent up s t :=
  ⟨fun p n h => by rwa [hp], by rw [hp], fun p _ => by rw [hp], hb, .same hf (by rw [hp]) up⟩

/-- Flags raised that are none of the three. -/
theorem Silent.raised {s t : State} {l : List (Port × Nat)} (h : FlagsRaised s t l)
    (hl : ∀ pn ∈ l, pn ≠ (.line, 4) ∧ pn ≠ (.line, 6) ∧ (pn.1 = .press ∨ pn.2 ≠ 7)) (hb : t.bins = s.bins)
    (hf : t.faults = s.faults) (up : Bool) : Silent up s t := by
  have other {p : Port} {n : Nat} (hn : n < 16) (hp : (p, n) ∉ l) :
      (t.port p).flags.getLsbD n = (s.port p).flags.getLsbD n := by
    rw [h p n hn]
    simp [hp]
  refine ⟨fun p n hn => ?_, other (by omega) fun hp => (hl _ hp).1 rfl, fun p hne => other (by omega) fun hp => ?_,
    fun b => by rw [hb], .same (fun k => by rw [hf]) (other (by omega) fun hp => (hl _ hp).2.1 rfl) up⟩
  · rcases Nat.lt_or_ge n 16 with h16 | h16
    · rw [h p n h16, hn]
      rfl
    · rw [BitVec.getLsbD_of_ge _ _ h16] at hn
      cases hn
  · exact (hl _ hp).2.2.elim hne fun h7 => h7 rfl

/-- A silent operation that leaves what the two conditions are computed from: the settings, the number of entries, and
the bins but for their reserved numbers. -/
structure Still (up : Bool) (s t : State) : Prop where
  silent : Silent up s t
  ram : t.ram = s.ram
  size : t.table.length = s.table.length
  bins : SameStacks s t

theorem Still.trans {up : Bool} {s t u : State} (h : Still up s t) (k : Still up t u) : Still up s u :=
  ⟨h.silent.trans k.silent, k.ram.trans h.ram, k.size.trans h.size, fun b => by rw [k.bins b, h.bins b]⟩

/-- `Still.trans` with the later part first. -/
theorem Still.after {up : Bool} {s t u : State} (k : Still up t u) (h : Still up s t) : Still up s u := h.trans k

theorem Still.refl (up : Bool) (s : State) : Still up s s :=
  ⟨.aside (fun _ => rfl) (fun _ => rfl) (fun _ => rfl) up, rfl, rfl, fun _ => rfl⟩

theorem Still.setPort (up : Bool) (s : State) (p : Port) {x : PortState} (hx : x.flags = (s.port p).flags) :
    Still up s (s.setPort p x) := by
  refine ⟨.aside (s := s) (t := s.setPort p x) (fun q => ?_) (fun _ => rfl) (fun _ => rfl) up, rfl, rfl, fun _ => rfl⟩
  rw [State.setPort_port]
  split
  next hq => rw [hq, hx]
  next => rfl

/-- A change aside from the ports, the faults and what the conditions are computed from. -/
theorem Still.aside {s t : State} (h1 : t.ports = s.ports) (h2 : t.faults = s.faults) (h3 : t.ram = s.ram)
    (h4 : t.table.length = s.table.length) (h5 : SameStacks s t) (up : Bool) : Still up s t :=
  ⟨.aside (fun p => by rw [State.port, State.port, h1]) (fun b => by rw [h5 b]) (fun k => by rw [h2]) up, h3, h4, h5⟩

/-- A change aside from the ports, the faults, the settings, the table and the bins. -/
theorem Still.same {up : Bool} {s t : State} (h1 : t.ports = s.ports) (h2 : t.faults = s.faults) (h3 : t.ram = s.ram)
    (h4 : t.table = s.table) (h5 : t.bins = s.bins) : Still up s t :=
  .aside h1 h2 h3 (by rw [h4]) (fun b => by rw [h5]) up

/-- An event of none of the three. -/
theorem Still.raise (up : Bool) (s : State) {e : Event}
    (he : ∀ pn ∈ e.bits, pn ≠ (.line, 4) ∧ pn ≠ (.line, 6) ∧ (pn.1 = .press ∨ pn.2 ≠ 7) := by decide) :
    Still up s (s.raise e) :=
  ⟨.raised (s.raise_raised e) he (by simp) (by simp) up, by simp, by simp, fun b => by simp⟩

theorem Still.raiseIf (up : Bool) (s : State) (c : Bool) {e : Event}
    (he : ∀ pn ∈ e.bits, pn ≠ (.line, 4) ∧ pn ≠ (.line, 6) ∧ (pn.1 = .press ∨ pn.2 ≠ 7) := by decide) :
    Still up s (s.raiseIf c e) := by
  cases c
  · exact .refl up s
  · exact .raise up s he

theorem Still.faultOccurs (s : State) (k : FaultKind) : Still true s (s.faultOccurs k) := by
  have raised := s.faultOccurs_raised k
  have bit {p : Port} {n : Nat} (hn : n < 16) (hne : (p, n) ≠ (.line, 6)) :
      ((s.faultOccurs k).port p).flags.getLsbD n = (s.port p).flags.getLsbD n := by
    rw [raised p n hn]
    split <;> simp [hne]
  refine ⟨⟨fun p n h => ?_, bit (by omega) (by decide), fun p _ => bit (by omega) (by simp), fun b => by simp, ?_, ?_⟩,
    by simp, by simp, fun b => by simp⟩
  · rcases Nat.lt_or_ge n 16 with hn | hn
    · rw [raised p n hn, h]
      rfl
    · rw [BitVec.getLsbD_of_ge _ _ hn] at h
      cases h
  · intro j hj
    rw [State.faultOccurs_faults, PerFault.get_set]
    split
    · rfl
    · exact hj
  · rw [raised .line 6 (by omega), State.faultOccurs_faults]
    cases hk : (s.faults.get k).pending with
    | true =>
      have none_new (j : FaultKind) : ¬ (((s.faults.set k
          { pending := true, count := min 255 ((s.faults.get k).count + 1) }).get j).pending = true ∧
          (s.faults.get j).pending = false) := by
        rw [PerFault.get_set]
        split
        next hj => simp [hj, hk]
        next => rintro ⟨h1, h2⟩; exact absurd (h1.symm.trans h2) (by simp)
      simp [none_new]
    | false => simpa using .inr ⟨k, by simp, hk⟩

theorem Still.faultEnds (s : State) (k : FaultKind) : Still false s (s.faultEnds k) := by
  rw [State.faultEnds_eq]
  refine ⟨⟨fun p n h => h, rfl, fun p _ => rfl, fun b => rfl, fun j hj => ?_, rfl⟩, rfl, rfl, fun _ => rfl⟩
  dsimp only at hj
  rw [PerFault.get_set] at hj
  split at hj
  · cases hj
  · exact hj

/-! ## The flags tell of what changed -/

/-- The four claims of what the flags tell between two states. -/
structure Told (s t : State) : Prop where
  kept : ∀ p n, (s.port p).flags.getLsbD n = true → (t.port p).flags.getLsbD n = true
  hold : (t.port .line).flags.getLsbD 4 = ((s.port .line).flags.getLsbD 4 || (s.lineHold != t.lineHold))
  changed : ∀ p, p ≠ .press → ((t.port p).flags.getLsbD 7 = true ↔ (s.port p).flags.getLsbD 7 = true ∨
    ∃ b, (s.bins.get b).mode ≠ (t.bins.get b).mode ∨ (s.bins.get b).full ≠ (t.bins.get b).full)
  faults : (t.port .line).flags.getLsbD 6 = true ↔ (s.port .line).flags.getLsbD 6 = true ∨
    ∃ k, (t.faults.get k).pending = true ∧ (s.faults.get k).pending = false

/-- Full, OPEN and roomy are conditions of a bin's record without its reserved number. -/
theorem SameStacks.full {s t : State} (h : SameStacks s t) (b : Fin 8) : (t.bins.get b).full = (s.bins.get b).full := by
  rw [h b]
  rfl

theorem SameStacks.blocked {s t : State} (h : SameStacks s t) (g : Grade) : blocked t.bins g = blocked s.bins g := by
  have same : openBins t.bins (.grade g) = openBins s.bins (.grade g) := by
    unfold openBins
    congr 1
    funext b
    rw [h b]
  unfold Machine.blocked
  rw [same]
  congr 2
  funext b
  rw [h b]
  rfl

theorem Still.lineHold {up : Bool} {s t : State} (h : Still up s t) : t.lineHold = s.lineHold := by
  have blocked_same : Machine.blocked t.bins = Machine.blocked s.bins := funext fun g => SameStacks.blocked h.bins g
  rw [State.lineHold, State.lineHold, h.ram, h.size, blocked_same]

theorem Still.told {up : Bool} {s t : State} (h : Still up s t) : Told s t := by
  refine ⟨h.silent.kept, by rw [h.silent.hold, h.lineHold, bne_self_eq_false, Bool.or_false], fun p hp => ?_, h.silent.faults.told⟩
  rw [h.silent.changed p hp]
  simp [h.silent.modes, SameStacks.full h.bins]

theorem fullBins_eq_iff {x y : Oct Bin} : fullBins x = fullBins y ↔ ∀ b, (x.get b).full = (y.get b).full := by
  rw [fullBins, fullBins, List.map_inj_left]
  exact ⟨fun h b => h b (by revert b; decide), fun h b _ => h b⟩

theorem State.announce_lineHold (s t : State) : (s.announce t).lineHold = t.lineHold :=
  lineHold_congr (by simp) (by simp) (by simp)

theorem State.announce_faults_get (s t : State) (k : FaultKind) : (s.announce t).faults.get k = t.faults.get k := by simp

/-- What a silent operation changed is announced after it (R76, R185). -/
theorem Silent.announced {up : Bool} {s t : State} (h : Silent up s t) : Told s (s.announce t) := by
  have raised := s.announce_raised t
  have bit (p : Port) (n : Nat) (hn : n < 16) := raised p n hn
  refine ⟨fun p n hn => ?_, ?_, fun p hp => ?_, ?_⟩
  · rcases Nat.lt_or_ge n 16 with h16 | h16
    · rw [bit p n h16, h.kept p n hn]
      rfl
    · rw [BitVec.getLsbD_of_ge _ _ h16] at hn
      cases hn
  · rw [bit .line 4 (by omega), h.hold, State.announce_lineHold]
    by_cases hh : s.lineHold = t.lineHold <;> by_cases hf : fullBins s.bins = fullBins t.bins <;>
      simp [holdFlag, fullFlags, hh, hf]
  · rw [bit p 7 (by omega), h.changed p hp]
    have flag : (p, 7) ∈ fullFlags s t ++ holdFlag s t ↔ fullBins s.bins ≠ fullBins t.bins := by
      have either : p = .line ∨ p = .stacker := by cases p <;> simp at hp ⊢
      by_cases hh : s.lineHold = t.lineHold <;> by_cases hf : fullBins s.bins = fullBins t.bins <;>
        simp [holdFlag, fullFlags, hh, hf, either]
    simp only [Bool.or_eq_true, decide_eq_true_eq, flag, ne_eq, fullBins_eq_iff, not_forall, State.announce_bins,
      h.modes, not_true_eq_false, false_or]
  · simp only [State.announce_faults_get]
    rw [bit .line 6 (by omega), ← h.faults.told]
    · have quiet : (Port.line, 6) ∉ fullFlags s t ++ holdFlag s t := by
        by_cases hh : s.lineHold = t.lineHold <;> by_cases hf : fullBins s.bins = fullBins t.bins <;>
          simp [holdFlag, fullFlags, hh, hf]
      simp [quiet]

/-- What a change leaves of what the flags tell of. -/
structure Unseen (s t : State) : Prop where
  flags : ∀ p, (t.port p).flags = (s.port p).flags
  hold : t.lineHold = s.lineHold
  bins : t.bins = s.bins
  faults : t.faults = s.faults

theorem Unseen.setPort (s : State) (p : Port) {x : PortState} (hx : x.flags = (s.port p).flags) :
    Unseen s (s.setPort p x) := by
  refine ⟨fun q => ?_, rfl, rfl, rfl⟩
  rw [State.setPort_port]
  split
  next hq => rw [hq, hx]
  next => rfl

theorem Told.before {s t u : State} (h : Unseen s t) (k : Told t u) : Told s u := by
  obtain ⟨flags, hold, bins, faults⟩ := h
  obtain ⟨k1, k2, k3, k4⟩ := k
  simp only [flags, hold, bins, faults] at k1 k2 k3 k4
  exact ⟨k1, k2, k3, k4⟩

theorem Told.after {s t u : State} (k : Told s t) (h : Unseen t u) : Told s u := by
  obtain ⟨flags, hold, bins, faults⟩ := h
  obtain ⟨k1, k2, k3, k4⟩ := k
  refine ⟨?_, ?_, ?_, ?_⟩ <;> simp only [flags, hold, bins, faults]
  exacts [k1, k2, k3, k4]

theorem Told.refl (s : State) : Told s s := (Still.refl true s).told

end Sys2Proof.Machine

namespace Sys2Proof.Machine

/-! ## The operations under the flags: the sheets -/

/-- What leaves the size of the table and moves the sheets' state alone. -/
theorem Still.ofSheets {s t : State} (h : SheetsOnly s t) (hl : t.table.length = s.table.length) (up : Bool) :
    Still up s t := by
  have bins : t.bins = s.bins := by rw [h]
  exact .aside (by rw [h]) (by rw [h]) (by rw [h]) hl (fun b => by rw [bins]) up

/-- What moves the sheets' state alone. -/
theorem Silent.ofSheets {s t : State} (h : SheetsOnly s t) (up : Bool) : Silent up s t := by
  have ports : t.ports = s.ports := by rw [h]
  have bins : t.bins = s.bins := by rw [h]
  have faults : t.faults = s.faults := by rw [h]
  exact .aside (fun p => by rw [State.port, State.port, ports]) (fun b => by rw [bins]) (fun k => by rw [faults]) up

theorem State.engineTake_length (s : State) : s.engineTake.table.length = s.table.length := by
  unfold State.engineTake
  split
  · rfl
  · split
    · exact List.length_map _
    · rfl

theorem State.becomeReady_length (s : State) (e : Entry) : (s.becomeReady e).table.length = s.table.length := by
  rw [State.becomeReady, State.engineTake_length, letGo_table]
  exact List.length_map _

theorem Still.syncCheck (s : State) (n : Nat) : Still true s (s.syncCheck n) := by
  unfold State.syncCheck
  split
  · exact .faultOccurs s _
  · exact .refl true s

theorem Still.countMissed (s : State) : Still true s s.countMissed := by
  have ahead : Still true s s.missAhead :=
    .after (.syncCheck _ _) (.same rfl rfl rfl rfl rfl)
  unfold State.countMissed
  split
  next e _ =>
    split
    · exact ahead
    · exact .after (.syncCheck _ _) (.ofSheets (.setEntry s _) (List.length_map _) true)
  next => exact ahead

theorem Still.missSheet (s : State) (tag : Byte) : Still true s (s.missSheet tag) := by
  have counted : Still true s ({ s with missed := satSucc Config.counterMax s.missed }.raise .missed) :=
    .after (.raise true _) (.same rfl rfl rfl rfl rfl)
  unfold State.missSheet
  exact .after (.countMissed _) (counted.trans (.same rfl rfl rfl rfl rfl))

theorem Silent.route (s : State) (tag : Byte) (k : Fin 4) (m : LaneMessage) : Silent true s (s.route tag k m) := by
  have stray : Silent true s s.countStray := Still.silent (.same rfl rfl rfl rfl rfl)
  unfold State.route
  split
  · split
    · exact .ofSheets (.deliver s _ k m) true
    · exact stray
  · split
    · exact stray
    · split
      · exact (Still.refl true s).silent
      · split
        · exact .ofSheets (.openEntry s tag k m) true
        · exact (Still.missSheet s tag).silent

theorem Still.expireWindow (s : State) (e : Entry) : Still true s (s.expireWindow e) :=
  .ofSheets (.becomeReady s _) (s.becomeReady_length _) true

theorem Still.laneOutcome (s : State) (k : Fin 4) (st : LaneState) : Still true s (s.laneOutcome k st) := by
  rcases s.laneOutcome_cases k st with ⟨-, h⟩ | ⟨-, h⟩ | ⟨-, h⟩ <;> rw [h]
  · exact .refl true s
  · exact .same rfl rfl rfl rfl rfl
  · have counted : Still true s (s.countFailure k) :=
      .after (.raise true _ (e := .laneFaulted)) (.same rfl rfl rfl rfl rfl)
    split
    · exact counted.trans (.after (.faultOccurs _ _)
        (.after (.raise true _ (e := .laneDown)) (.same rfl rfl rfl rfl rfl)))
    · exact counted

theorem Still.laneOutcomes (s : State) (e : Entry) : Still true s (s.laneOutcomes e) := by
  unfold State.laneOutcomes
  generalize fourLanes = l
  induction l generalizing s with
  | nil => exact .refl true s
  | cons k l ih => exact (Still.laneOutcome s k _).trans (ih _)

theorem Still.complete (s : State) (e : Entry) : Still true s (s.complete e) := by
  unfold State.complete
  dsimp only
  refine .after (.ofSheets (.engineTake _) (State.engineTake_length _) true) (.after (.raiseIf true _ _) ?_)
  exact .after (.laneOutcomes _ _) (.ofSheets (.setEntry s _) (List.length_map _) true)

theorem Still.returnLane (s : State) (k : Fin 4) : Still false s (s.returnLane k) := by
  unfold State.returnLane
  dsimp only
  split
  · exact .same rfl rfl rfl rfl rfl
  · exact .after (.faultEnds _ _) (.same rfl rfl rfl rfl rfl)

theorem Still.clearFaults (s : State) (clear : Word) : Still false s (s.clearFaults clear) := by
  refine ⟨⟨fun p n h => ?_, ?_, fun p _ => ?_, fun b => ?_, fun k hk => ?_, ?_⟩, ?_, ?_, fun b => ?_⟩
  · simpa [State.clearFaults, State.port] using h
  · simp [State.clearFaults, State.port]
  · simp [State.clearFaults, State.port]
  · simp [State.clearFaults]
  · simp only [State.clearFaults, State.settleFirstFault_faults, PerFault.get_of, FaultEntry.cleared] at hk
    split at hk
    · exact hk
    · split at hk
      · cases hk
      · exact hk
  · simp [State.clearFaults, State.port]
  · simp [State.clearFaults]
  · simp [State.clearFaults]
  · simp [State.clearFaults]

/-! ## The settings and the bins' states -/

/-- A change of what is neither a port nor a fault, under which each bin keeps its state. -/
theorem Silent.ofModes {up : Bool} {s t : State} (h1 : t.ports = s.ports) (h2 : t.faults = s.faults)
    (hb : ∀ b, (t.bins.get b).mode = (s.bins.get b).mode) : Silent up s t :=
  .aside (fun p => by rw [State.port, State.port, h1]) hb (fun k => by rw [h2]) up

theorem Bin.follow_mode (r : Bin) (x : Settings) (b : Fin 8) : (r.follow x b).mode = r.mode := by
  unfold Bin.follow
  split <;> rfl

theorem Silent.install (s : State) (r : Settings) (up : Bool) : Silent up s (s.install r) := by
  refine .ofModes rfl rfl fun b => ?_
  simp only [State.install, Oct.get_of]
  exact Bin.follow_mode _ _ _

theorem Told.setSetting (s : State) (key : Word) (value : BitVec 32) : Told s (s.setSetting key value).1 := by
  unfold State.setSetting
  split
  · exact .refl s
  · split
    · exact .refl s
    · unfold State.writeSetting
      split
      · exact .refl s
      · split
        · exact .refl s
        · exact (Silent.install s _ true).announced

/-- The end of an operation of the settings store tells of SETTINGS_DONE alone. -/
theorem Still.settingsDone (up : Bool) (s : State) : Still up s ({ s with op := .idle, bus := .idle }.raise .settingsDone) :=
  .after (.raise up _) (.same rfl rfl rfl rfl rfl)

theorem Told.endLoad (s : State) (read : LoadRead) : Told s (s.endLoad read) := by
  unfold State.endLoad
  dsimp only
  split
  next r _ =>
    have valid : Still false (s.install r) { s.install r with settingsValid := true } :=
      .same rfl rfl rfl rfl rfl
    exact ((Silent.install s r false).trans (valid.trans ((Still.faultEnds _ _).trans (.settingsDone false _))).silent).announced
  next =>
    have invalid : Still true (s.install .defaults) { s.install .defaults with settingsValid := false } :=
      .same rfl rfl rfl rfl rfl
    exact ((Silent.install s _ true).trans
      (invalid.trans ((Still.faultOccurs _ _).trans (.settingsDone true _))).silent).announced

theorem Told.endStore (s : State) (result : StoreResult) : Told s (s.endStore result) := by
  unfold State.endStore
  dsimp only
  split
  · have valid : Still false s { s with settingsValid := true } := .same rfl rfl rfl rfl rfl
    exact (valid.trans ((Still.faultEnds _ _).trans (.settingsDone false _))).told
  · exact ((Still.faultOccurs s _).trans (.settingsDone true _)).told

end Sys2Proof.Machine

namespace Sys2Proof.Machine

/-! ## The operations under the flags: the bins and the orders -/

theorem sameStacks_of_reserved {s t : State}
    (h : ∀ b, ∃ n, t.bins.get b = { s.bins.get b with reserved := n }) : SameStacks s t := by
  intro b
  obtain ⟨n, hn⟩ := h b
  rw [hn]

/-- A change of orders and of reserved numbers alone. -/
theorem Still.draws {up : Bool} {s t : State} (h1 : t.ports = s.ports) (h2 : t.faults = s.faults) (h3 : t.ram = s.ram)
    (h4 : t.table = s.table) (hb : ∀ b, ∃ n, t.bins.get b = { s.bins.get b with reserved := n }) : Still up s t :=
  .aside h1 h2 h3 (by rw [h4]) (sameStacks_of_reserved hb) up

theorem Still.admitHead {s t : State} (h : s.admitHead = some t) : Still true s t := by
  obtain ⟨k, o, rest, bs, -, -, -, rfl⟩ := State.admitHead_some h
  refine .after (.raise true _) (.draws rfl rfl rfl rfl fun b => ⟨_, reserveAll_get _ _ _⟩)

theorem Still.admissions (s : State) : Still true s s.admissions :=
  State.admissions_induct (P := Still true s) (fun _ _ h ht => h.trans (.admitHead ht)) (.refl true s)

theorem Still.retryStalled (s : State) (k : Fin 2) : Still true s (s.retryStalled k) := by
  unfold State.retryStalled
  split
  · exact .refl true s
  · split
    · split
      · exact .refl true s
      · exact .after (.raise true _) (.draws rfl rfl rfl rfl fun b => ⟨_, reserveAll_get _ _ _⟩)
    · exact .refl true s

theorem Still.growth (s : State) : Still true s s.growth :=
  State.growth_induct (P := Still true s) (fun _ _ h => h.trans (.retryStalled _ _))
    (fun _ _ h ht => h.trans (.admitHead ht)) (.refl true s)

theorem Still.afterRelease (s : State) (released : List (Fin 8)) : Still true s (s.afterRelease released) := by
  unfold State.afterRelease
  split
  · exact .admissions s
  · exact .growth s

theorem Still.leaveSlot (s : State) (a : Active) (x : Finish) : Still true s (s.leaveSlot a x) :=
  .after (.raise true _ (e := .finished)) (.same rfl rfl rfl rfl rfl)

theorem Still.setActive (s : State) (a : Active) : Still true s (s.setActive a) := .same rfl rfl rfl rfl rfl

theorem Still.release (s : State) (bs : List (Fin 8)) : Still true s { s with bins := releaseAll s.bins bs } :=
  .draws rfl rfl rfl rfl fun _ => ⟨_, releaseAll_get _ _ _⟩

theorem Still.abort (s : State) (a : Active) (cause : AbortCause) : Still true s (s.abort a cause) := by
  unfold State.abort
  dsimp only
  split
  · exact (Still.release s _).trans ((Still.leaveSlot _ _ _).trans (.afterRelease _ _))
  · exact (Still.release s _).trans ((Still.setActive _ _).trans (.afterRelease _ _))

theorem Still.settleClosing (s : State) (a : Active) (cause : AbortCause) : Still true s (s.settleClosing a cause) :=
  (Still.release s _).trans ((Still.leaveSlot _ _ _).trans (.afterRelease _ _))

theorem Still.takeOrder (s : State) (number : Word) (cls count : Byte) (plies : List Byte) :
    Still true s (s.takeOrder number cls count plies).1 := by
  unfold State.takeOrder
  split
  · exact .refl true s
  · split
    · exact .refl true s
    · split
      · exact .refl true s
      · exact .after (.admissions _) (.same rfl rfl rfl rfl rfl)

theorem Still.cancel (s : State) (number : Word) : Still true s (s.cancel number).1 := by
  unfold State.cancel
  split
  next n _ =>
    have finished : Still true s
        ({ s with queue := s.queue.filter fun o => o.number ≠ number }.reportFinish number (.aborted .cancelled)) :=
      .after (.raise true _ (e := .finished)) (.same rfl rfl rfl rfl rfl)
    unfold State.cancelWaiting
    dsimp only
    split
    · exact finished.trans (.admissions _)
    · exact finished
  · split
    · unfold State.cancelActive
      split
      · exact .refl true s
      all_goals exact .abort s _ _
    · exact .refl true s

theorem Still.nextPly (s : State) (number : Word) : Still true s (s.nextPly number).1 := by
  unfold State.nextPly
  split
  · exact .refl true s
  · split
    · exact .refl true s
    all_goals
      unfold State.callNext
      split
      · exact .refl true s
      · split
        · exact .refl true s
        · split
          · exact .refl true s
          · exact .setActive s _

theorem Still.uncall (s : State) (number : Word) : Still true s (s.uncall number).1 := by
  unfold State.uncall
  split
  · exact .refl true s
  · split
    · exact .refl true s
    · unfold State.uncallActive
      split
      · exact .settleClosing s _ _
      all_goals exact .setActive s _

/-! ## Stacks that rise and fall -/

/-- One bin's record is replaced by another of the same state. -/
theorem Silent.setBin (s : State) (b : Fin 8) {r : Bin} (h : r.mode = (s.bins.get b).mode) : Silent true s (s.setBin b r) := by
  refine .ofModes rfl rfl fun c => ?_
  rw [State.setBin, Oct.get_set]
  split
  next hc => rw [hc, h]
  next => rfl

theorem Silent.takeFrom (s : State) (b : Fin 8) : Silent true s (s.takeFrom b) := .setBin s b rfl

theorem Told.takeCalled (s : State) (a : Active) (n : Nat) (b : Fin 8) : Told s (s.takeCalled a n b).1 := by
  have left (x : Finish) : Silent true s (((s.takeFrom b).leaveSlot a x).admissions) :=
    (Silent.takeFrom s b).trans ((Still.leaveSlot _ _ _).trans (.admissions _)).silent
  unfold State.takeCalled
  split
  · exact (left _).announced
  all_goals
    refine Silent.announced (up := true) ?_
    unfold State.take
    dsimp only
    split
    · exact left _
    · exact (Silent.takeFrom s b).trans (Still.setActive _ _).silent

theorem Told.taken (s : State) (number : Word) : Told s (s.taken number).1 := by
  unfold State.taken
  split
  · exact .refl s
  · unfold State.takeActive
    split
    · exact .takeCalled s _ _ _
    · split <;> exact .refl s

theorem SheetsOnly.carry (s : State) (e : Entry) : SheetsOnly s (s.carryUnscanned e) := rfl

theorem Silent.whereNext (s : State) : Silent true s s.whereNext.1 := by
  have gate (e : Entry) : Silent true s (s.gate e) := .ofSheets ((SheetsOnly.carry s e).trans (.removeEntry _ _)) true
  unfold State.whereNext
  split
  · exact Still.silent (.same rfl rfl rfl rfl rfl)
  · split
    · exact (Still.refl true s).silent
    next e _ =>
      split
      · unfold State.whereGraded
        split
        · exact gate e
        · split
          · exact .after (.setBin _ _ rfl) (.ofSheets ((SheetsOnly.carry s e).trans (.setEntry _ _)) true)
          · exact gate e
      all_goals exact (Still.refl true s).silent

theorem Told.outOfOrder (s : State) : Told s s.outOfOrder.1 := (Still.faultOccurs s _).told

theorem Told.dropped (s : State) (sheet : Word) : Told s (s.dropped sheet).1 := by
  unfold State.dropped
  split
  · exact .outOfOrder s
  next e _ =>
    split
    next r b _ =>
      split
      · have pushed : Silent true s (s.pushRecord b r) := .setBin s b rfl
        have arrived : Silent true _ ((s.pushRecord b r).inboundDown b) := .setBin _ b rfl
        exact (pushed.trans (arrived.trans
          ((Silent.ofSheets (.removeEntry _ e) true).trans (Still.growth _).silent))).announced
      · exact .outOfOrder s
    all_goals exact .outOfOrder s

theorem Told.divert (s : State) (sheet : Word) : Told s (s.divert sheet).1 := by
  have unplaced (e : Entry) : Silent true s (s.divertUnplaced e) := by
    have gone : Silent true s ((s.carryUnscanned e).removeEntry e) := .ofSheets ((SheetsOnly.carry s e).trans (.removeEntry _ _)) true
    unfold State.divertUnplaced
    dsimp only
    split
    · exact gone.trans (Still.silent (.same rfl rfl rfl rfl rfl))
    · exact gone
  have other : Told s (s.divertOther sheet).1 := by
    unfold State.divertOther
    split
    · split
      · exact (unplaced _).announced
      · exact .outOfOrder s
    · exact .outOfOrder s
  unfold State.divert
  split
  · exact other
  next e _ =>
    split
    next b _ =>
      split
      · have arrived : Silent true s (s.inboundDown b) := .setBin s b rfl
        exact (arrived.trans (.ofSheets ((SheetsOnly.carry _ e).trans (.removeEntry _ e)) true)).announced
      · exact other
    all_goals exact other

theorem Still.settlement (s : State) (b : Fin 8) : Still true s (s.settlement b) := by
  refine State.settlement_induct (P := Still true s) (fun u k hu => hu.trans ?_) (.refl true s)
  unfold State.settleSlot
  split
  · exact .refl true u
  next a _ =>
    split
    · split
      · exact .leaveSlot u _ _
      · exact .refl true u
    all_goals
      refine .after (.raiseIf true _ _) (.after (.raiseIf true _ _) (.draws rfl rfl rfl rfl fun c => ?_))
      obtain ⟨more, -, -, -, -, bins, -⟩ := replan_spec b a.plies u.bins
      exact ⟨_, by rw [bins]; exact reserveAll_get _ _ _⟩

theorem Silent.emptyBin (s : State) (b : Fin 8) : Silent true s (s.emptyBin b) := by
  have discarded : Silent true s (s.discardStack b) := .setBin s b rfl
  have settled := discarded.trans (Still.settlement (s.discardStack b) b).silent
  show Silent true s (if ((s.discardStack b).settlement b).active.length < _ then _ else _)
  split
  · exact settled.trans (Still.admissions _).silent
  · exact settled

theorem Told.emptied (s : State) (bin : Byte) : Told s (s.emptied bin).1 := by
  unfold State.emptied
  split
  · exact .refl s
  · split
    · exact .refl s
    · exact (Silent.emptyBin s _).announced

theorem Silent.lineEdge (s : State) (k : Fin 8) : Silent true s (s.lineEdge k) := by
  have edge (l : Line) : Silent true s { s with lines := s.lines.set k l } := Still.silent (.same rfl rfl rfl rfl rfl)
  unfold State.lineEdge State.emptyByLine
  dsimp only
  split
  · split
    · exact edge _
    · exact (edge _).trans (.emptyBin _ _)
  · exact edge _

end Sys2Proof.Machine

namespace Sys2Proof.Machine

/-! ## The flags of every command (R76, R167, R171, R185) -/

/-- A bin's change of state sets BIN_CHANGED by itself. -/
theorem Told.changeBin (s : State) {b : Fin 8} {m : BinMode} (hm : m ≠ (s.bins.get b).mode) :
    Told s (s.changeBin b m).1 := by
  generalize hr : { s.bins.get b with mode := m }.follow s.ram b = r
  have mode : r.mode = m := by rw [← hr]; exact Bin.follow_mode _ _ _
  have bit := (State.raise_raised (s.setBin b r) .binChanged).trans (s.announce_raised ((s.setBin b r).raise .binChanged))
  have result : (s.changeBin b m).1 = s.announce ((s.setBin b r).raise .binChanged) := by rw [← hr]; rfl
  have hold : (s.announce ((s.setBin b r).raise .binChanged)).lineHold = ((s.setBin b r).raise .binChanged).lineHold :=
    s.announce_lineHold _
  have quiet : (Port.line, 6) ∉ Event.binChanged.bits ++
      (fullFlags s ((s.setBin b r).raise .binChanged) ++ holdFlag s ((s.setBin b r).raise .binChanged)) := by
    by_cases hh : s.lineHold = ((s.setBin b r).raise .binChanged).lineHold <;>
      by_cases hf : fullBins s.bins = fullBins ((s.setBin b r).raise .binChanged).bins <;>
      simp [holdFlag, fullFlags, hh, hf, Event.bits]
  have same (p : Port) : (s.setBin b r).port p = s.port p := rfl
  rw [result]
  refine ⟨fun p n hn => ?_, ?_, fun p hp => ?_, ?_⟩
  · rcases Nat.lt_or_ge n 16 with h16 | h16
    · rw [bit p n h16, same, hn]
      rfl
    · rw [BitVec.getLsbD_of_ge _ _ h16] at hn
      cases hn
  · rw [bit .line 4 (by omega), same, hold]
    by_cases hh : s.lineHold = ((s.setBin b r).raise .binChanged).lineHold <;>
      by_cases hf : fullBins s.bins = fullBins ((s.setBin b r).raise .binChanged).bins <;>
      simp [holdFlag, fullFlags, hh, hf, Event.bits]
  · have either : (p, 7) ∈ Event.binChanged.bits := by cases p <;> simp [Event.bits] at hp ⊢
    rw [bit p 7 (by omega), same, decide_eq_true (List.mem_append_left _ either), Bool.or_true]
    refine ⟨fun _ => .inr ⟨b, .inl ?_⟩, fun _ => rfl⟩
    rw [State.announce_bins, State.raise_bins, State.setBin, Oct.get_set, if_pos rfl, mode]
    exact hm.symm
  · rw [bit .line 6 (by omega), same, decide_eq_false quiet, Bool.or_false]
    simp [State.setBin]

theorem Told.binState (s : State) (bin requested : Byte) : Told s (s.binState bin requested).1 := by
  unfold State.binState
  split
  · split
    · exact .refl s
    · unfold State.decideBin
      dsimp only
      split
      · next hm _ _ => exact .changeBin s (by rw [hm]; decide)
      · exact .refl s
      · next hm _ _ => exact .changeBin s (by rw [hm]; decide)
      · exact .refl s
      · next hm _ _ => exact .changeBin s (by rw [hm]; decide)
      · exact .refl s
      · exact .refl s
      all_goals
        next hm _ _ =>
          split
          · exact .changeBin s (by rw [hm]; decide)
          · exact .refl s
  · exact .refl s

theorem powered_told {f : State → State} {s t : State} (hf : Told s (f s)) (h : powered s f = .next t) : Told s t := by
  by_cases hl : s.porstLow = true
  · rw [powered_held hl] at h
    cases h
    exact .refl s
  · rw [powered_next (by simpa using hl)] at h
    cases h
    exact hf

/-- A station command's flags tell what its owning block's decision changed: the taking of a frame and the placing of an
answer touch no flag and no condition. -/
theorem station_told {p : Port} {tag : Byte} {right acts : Bool} {body : State → State × Option Reply} {s t : State}
    (hb : ∀ u : State, Told u (body u).1) (h : station p tag right acts body s = .next t) : Told s t := by
  by_cases hl : s.porstLow = true
  · rw [station, powered_held hl] at h
    cases h
    exact .refl s
  · rw [station_next (by simpa using hl)] at h
    cases h
    have accepted : Unseen s (s.acceptFrame p) := .setPort s p rfl
    have answer (u : State) (r : Reply) : Unseen u (u.placeAnswer p tag r) := .setPort u p rfl
    have refused (r : Reply) : Told s ((s.acceptFrame p).placeAnswer p tag r) :=
      .before accepted (.after (.refl _) (answer _ r))
    unfold dispatched
    split
    · exact refused _
    · split
      · exact refused _
      · have told := hb (s.acceptFrame p)
        refine .before accepted ?_
        unfold State.answered
        split
        · exact told.after (answer _ _)
        · exact told

theorem exec_told {c : Instr} {s t : State} (hp : s.porstLow = false) (hc : clearsFlags c = false)
    (h : exec c s = .next t) : Told s t := by
  have same (u : State) : Told u u := .refl u
  have still {u v : State} (k : Still true u v) : Told u v := k.told
  have rejected (w : Window) (kind : FrameError) (port : Port) : Still true s (s.rejectFrame port w kind) :=
    .setPort true s port rfl
  unfold exec at h
  cases c with
  | defect lane tag zone type size => exact powered_told (Silent.route s _ _ _).announced h
  | sample lane tag zone raw thickness temp => exact powered_told (Silent.route s _ _ _).announced h
  | laneDone lane tag status => exact powered_told (Silent.route s _ _ _).announced h
  | badMessage =>
    refine powered_told (still ?_) h
    exact .after (.raise true _ (e := .badMessage)) (.same rfl rfl rfl rfl rfl)
  | scanWindowExpiry tag =>
    refine powered_told ?_ h
    split
    · split
      · exact still (.expireWindow s _)
      · exact same s
    · exact same s
  | gradingComplete =>
    refine powered_told ?_ h
    split
    · exact still (.complete s _)
    · exact same s
  | holdTimerExpiry slot =>
    refine powered_told ?_ h
    split
    · exact same s
    · split
      · exact same s
      all_goals split; exacts [still (.abort s _ _), same s]
  | lineEdge line =>
    refine powered_told ?_ h
    rcases s.lineChange_cases line true fun s => s.announce (s.lineEdge line) with ⟨-, h⟩ | ⟨-, -, h⟩ | ⟨-, -, h⟩ <;> rw [h]
    · exact still (.same rfl rfl rfl rfl rfl)
    · exact (Silent.lineEdge s line).announced
    · exact same s
  | debouncedLevelInactive line =>
    refine powered_told ?_ h
    rcases s.lineChange_cases line false fun s => { s with
      lines := s.lines.set line ((s.lines.get line).settle false (s.ram.lineInvert.get line)) } with
      ⟨-, h⟩ | ⟨-, -, h⟩ | ⟨-, -, h⟩ <;> rw [h]
    · exact still (.same rfl rfl rfl rfl rfl)
    · exact still (.same rfl rfl rfl rfl rfl)
    · exact same s
  | selectFall port =>
    cases h
    split <;> exact still (.setPort true s port rfl)
  | frameRejected port kind => exact powered_told (still (rejected _ _ port)) h
  | selectTimeout port => exact powered_told (still (rejected _ _ port)) h
  | unknownCommand port code tag =>
    have accepted : Unseen s (s.acceptFrame port) := .setPort s port rfl
    exact powered_told (.before accepted (.after (same _) (.setPort _ port (by rfl)))) h
  | fetch port tag => exact station_told same h
  | status port tag => exact station_told same h
  | readEvents port tag clear => cases hc
  | setAttnMask port tag mask => exact station_told (fun u => .after (same u) (.setPort u port (by rfl))) h
  | readBin port tag bin depth =>
    refine station_told (fun u => ?_) h
    unfold State.readBin
    split
    · split <;> exact same u
    · exact same u
  | readSheet port tag sheet part selector => exact station_told same h
  | portReset port tag => cases hc
  | start port tag =>
    refine station_told (fun u => ?_) h
    unfold State.start
    split
    · exact same u
    · split
      · exact same u
      · split
        · exact still (.same rfl rfl rfl rfl rfl)
        · exact same u
  | stop port tag => exact station_told (fun u => still (.same rfl rfl rfl rfl rfl)) h
  | setSetting port tag key value => exact station_told (fun u => .setSetting u key value) h
  | getSetting port tag key => exact station_told same h
  | loadSettings port tag =>
    refine station_told (fun u => ?_) h
    unfold State.loadSettings
    split
    · exact same u
    · split
      · exact same u
      · exact still (.same rfl rfl rfl rfl rfl)
  | storeSettings port tag =>
    refine station_told (fun u => ?_) h
    unfold State.storeSettings
    split
    · exact same u
    · exact still (.same rfl rfl rfl rfl rfl)
  | binState port tag bin requested => exact station_told (fun u => .binState u bin requested) h
  | laneUp port tag lane =>
    refine station_told (fun u => ?_) h
    unfold State.laneUp
    split
    · exact (Still.returnLane u _).told
    · exact same u
  | readFaults port tag clear => exact station_told (fun u => (Still.clearFaults u clear).told) h
  | readLines port tag clear => exact station_told (fun u => still (.same rfl rfl rfl rfl rfl)) h
  | resetLine port tag => cases hc
  | whereTo port tag => exact station_told (fun u => (Silent.whereNext u).announced) h
  | dropped port tag sheet => exact station_told (fun u => .dropped u sheet) h
  | divert port tag sheet => exact station_told (fun u => .divert u sheet) h
  | emptied port tag bin => exact station_told (fun u => .emptied u bin) h
  | order port tag number cls count plies => exact station_told (fun u => still (.takeOrder u number cls count plies)) h
  | cancel port tag number => exact station_told (fun u => still (.cancel u number)) h
  | nextPly port tag number => exact station_told (fun u => still (.nextPly u number)) h
  | taken port tag number => exact station_told (fun u => .taken u number) h
  | uncall port tag number => exact station_told (fun u => still (.uncall u number)) h
  | orderStatus port tag number => exact station_told same h
  | lineReset stays => cases hc
  | powerOnReset => cases hc
  | powerOnLoad =>
    cases h
    rw [hp]
    exact same s
  | loadEnd read =>
    refine powered_told ?_ h
    split
    · exact .endLoad s read
    · exact same s
  | storeEnd result =>
    refine powered_told ?_ h
    split
    · exact .endStore s result
    · exact same s

/-- Settles O55: every operation raises the three flags with what it changes, or is announced after it changed it. -/
theorem flagsAreSetExactlyByTheirConditions : Obligations.FlagsAreSetExactlyByTheirConditions := by
  intro s t c hp hc h
  obtain ⟨kept, hold, changed, faults⟩ := exec_told hp hc h
  exact ⟨kept, hold, changed, faults⟩

end Sys2Proof.Machine

namespace Sys2Proof.Machine

/-! ## Acceptance of a frame commutes with the scheduler's operations (R151) -/

theorem State.admitHead_acceptFrame (s : State) (p : Port) :
    (s.acceptFrame p).admitHead = s.admitHead.map fun t => t.acceptFrame p := by
  unfold State.admitHead
  rw [show (s.acceptFrame p).lowestFree = s.lowestFree from rfl, State.acceptFrame_queue]
  split
  · rw [Option.map_map]
    exact congrArg (Option.map · _) (funext fun bs => State.raise_acceptFrame { s with
      queue := _, active := _, bins := _, admissionSeq := _ } p .admitted)
  · rfl

theorem State.admissions_acceptFrame (s : State) (p : Port) : (s.acceptFrame p).admissions = s.admissions.acceptFrame p := by
  have upTo (n : Nat) (s : State) : State.admitUpTo n (s.acceptFrame p) = (State.admitUpTo n s).acceptFrame p := by
    induction n generalizing s with
    | zero => rfl
    | succ n ih =>
      rw [State.admitUpTo, State.admitUpTo, State.admitHead_acceptFrame]
      cases s.admitHead with
      | none => rfl
      | some t => exact ih t
  exact upTo 2 s

theorem State.retryStalled_acceptFrame (s : State) (p : Port) (k : Fin 2) :
    (s.acceptFrame p).retryStalled k = (s.retryStalled k).acceptFrame p := by
  unfold State.retryStalled
  rw [show (s.acceptFrame p).findSlot k = s.findSlot k from rfl, State.acceptFrame_bins]
  split
  · rfl
  · split
    · split
      · rfl
      · exact State.raise_acceptFrame { s.setActive _ with bins := _ } p .resumed
    · rfl

/-- What each step of a loop over the slots commutes with, the loop commutes with. -/
theorem foldl_acceptFrame {f : State → Fin 2 → State} {p : Port}
    (h : ∀ s k, f (s.acceptFrame p) k = (f s k).acceptFrame p) (l : List (Fin 2)) (s : State) :
    l.foldl f (s.acceptFrame p) = (l.foldl f s).acceptFrame p := by
  induction l generalizing s with
  | nil => rfl
  | cons k l ih => rw [List.foldl_cons, List.foldl_cons, h, ih]

theorem State.growth_acceptFrame (s : State) (p : Port) : (s.acceptFrame p).growth = s.growth.acceptFrame p := by
  unfold State.growth
  rw [← State.admissions_acceptFrame]
  exact congrArg State.admissions (foldl_acceptFrame (fun s k => s.retryStalled_acceptFrame p k) _ s)

theorem State.leaveSlot_acceptFrame (s : State) (p : Port) (a : Active) (x : Finish) :
    (s.acceptFrame p).leaveSlot a x = (s.leaveSlot a x).acceptFrame p :=
  State.raise_acceptFrame { s.freeSlot a.slot with finished := _ } p .finished

theorem State.settleSlot_acceptFrame (s : State) (p : Port) (b : Fin 8) (k : Fin 2) :
    State.settleSlot b (s.acceptFrame p) k = (State.settleSlot b s k).acceptFrame p := by
  unfold State.settleSlot
  rw [show (s.acceptFrame p).findSlot k = s.findSlot k from rfl]
  split
  · rfl
  · split
    · split
      · exact s.leaveSlot_acceptFrame p _ _
      · rfl
    all_goals
      rw [← State.raiseIf_acceptFrame, ← State.raiseIf_acceptFrame]
      rfl

theorem State.emptyBin_acceptFrame (s : State) (p : Port) (b : Fin 8) :
    (s.acceptFrame p).emptyBin b = (s.emptyBin b).acceptFrame p := by
  have settled : ((s.acceptFrame p).discardStack b).settlement b = ((s.discardStack b).settlement b).acceptFrame p :=
    foldl_acceptFrame (fun s k => s.settleSlot_acceptFrame p b k) _ (s.discardStack b)
  show (if (((s.acceptFrame p).discardStack b).settlement b).active.length < s.active.length
      then (((s.acceptFrame p).discardStack b).settlement b).admissions
      else ((s.acceptFrame p).discardStack b).settlement b) =
    State.acceptFrame (if ((s.discardStack b).settlement b).active.length < s.active.length
      then ((s.discardStack b).settlement b).admissions else (s.discardStack b).settlement b) p
  rw [settled, State.acceptFrame_active, State.admissions_acceptFrame]
  split <;> rfl

theorem State.take_acceptFrame (s : State) (p : Port) (a : Active) (n : Nat) (b : Fin 8) :
    (s.acceptFrame p).take a n b = (s.take a n b).acceptFrame p := by
  unfold State.take
  dsimp only
  rw [show (s.acceptFrame p).takeFrom b = (s.takeFrom b).acceptFrame p from rfl, State.acceptFrame_ram,
    State.leaveSlot_acceptFrame, State.admissions_acceptFrame]
  split <;> rfl

theorem State.takeLate_acceptFrame (s : State) (p : Port) (a : Active) (b : Fin 8) (c : AbortCause) :
    (s.acceptFrame p).takeLate a b c = (s.takeLate a b c).acceptFrame p := by
  unfold State.takeLate
  rw [show (s.acceptFrame p).takeFrom b = (s.takeFrom b).acceptFrame p from rfl, State.leaveSlot_acceptFrame,
    State.admissions_acceptFrame]

/-- A number of two bytes is its word. -/
theorem bytesOf_eq (n : Nat) : bytesOf n = wordBytes (BitVec.ofNat 16 n) := by
  have high : byteOf (n / 256) = (BitVec.ofNat 16 n).extractLsb' 8 8 := by
    apply BitVec.eq_of_toNat_eq
    simp only [byteOf, BitVec.toNat_ofNat, BitVec.extractLsb'_toNat, Nat.shiftRight_eq_div_pow]
    omega
  have low : byteOf n = (BitVec.ofNat 16 n).extractLsb' 0 8 := by
    apply BitVec.eq_of_toNat_eq
    simp only [byteOf, BitVec.toNat_ofNat, BitVec.extractLsb'_toNat, Nat.shiftRight_eq_div_pow]
    omega
  rw [bytesOf, wordBytes, high, low]

/-! ## Emptying (R94, R95, R182) -/

theorem binNumber_val (b : Fin 8) : binNumber b.val = some b := by simp [binNumber]

theorem binNumber_none {n : Nat} (h : 8 ≤ n) : binNumber n = none := by simp [binNumber, Nat.not_lt.2 h]

/-- An order queue stands beside the settlement, and the head of the queue is tried for a freed slot. -/
theorem State.emptyBin_settled {s : State} (h : OrderInv s) (b : Fin 8) :
    ∃ v, Settled s v b ∧ s.emptyBin b = if v.active.length < s.active.length then v.admissions else v :=
  ⟨_, (s.settlement_settled h b).1, rfl⟩

/-- An edge of a line is announced with what it changed. -/
theorem exec_lineEdge {s : State} {k : Fin 8} (hp : s.porstLow = false) (hl : (s.lines.get k).lapsed ≠ some true)
    (hd : (s.lines.get k).debounced = some false) : exec (.lineEdge k) s = .next (s.announce (s.lineEdge k)) := by
  refine (powered_next hp fun s => s.lineChange k true fun s => s.announce (s.lineEdge k)).trans ?_
  rw [State.lineChange, if_neg hl, if_pos (by rw [hd]; rfl)]

/-- Settles O41: the settlement of the active orders, behind the discarded stack. -/
theorem emptyingABinSettlesTheOrders : Obligations.EmptyingABinSettlesTheOrders := by
  intro s ho tried
  refine ⟨fun tag bin hr => ⟨fun hbin => ?_, fun b hb => ⟨fun hm => ?_, fun hm => ?_⟩⟩,
    ?_⟩
  · refine station_answers hr (Reply.bare .badArgument) ?_
    simp [State.emptied, binNumber_none hbin, unchanged]
  · refine station_answers hr (Reply.bare .refused) ?_
    simp [State.emptied, hb, binNumber_val, hm, unchanged]
  · obtain ⟨v, settled, hv⟩ := State.emptyBin_settled ho b
    refine ⟨v, settled, ?_⟩
    rw [← bytesOf_eq, show tried v = s.emptyBin b from hv.symm]
    refine stacker_announces hr (Reply.ok (bytesOf (s.bins.get b).count)) ?_
    rw [← State.emptyBin_acceptFrame]
    simp [State.emptied, hb, binNumber_val, hm]
  · intro k b hp hl hd hf hm edge
    have ho' : OrderInv { s with lines := s.lines.set k edge } := ho
    obtain ⟨v, settled, hv⟩ := State.emptyBin_settled ho' b
    refine ⟨v, settled, ?_⟩
    have effect : s.lineEdge k = State.emptyBin { s with lines := s.lines.set k edge } b := by
      have pin : edge = { (s.lines.get k).settle true (s.ram.lineInvert.get k) with latch := true } := by
        simp [edge, Line.settle]
      unfold State.lineEdge
      rw [hf, pin]
      dsimp only [LineFunction.emptiedBin]
      rw [State.emptyByLine, if_neg hm]
    rw [exec_lineEdge hp hl hd, effect, hv]

/-! ## The drop (R85, R86) -/

/-- DROPPED of another number than the oldest PLACED entry's (R86). -/
theorem State.dropped_other {s : State} (ht : TableInv s) {sheet : Word}
    (hn : ∀ x, s.table.head? = some x → x.isPlaced = true → x.sheet ≠ sheet) : s.dropped sheet = s.outOfOrder := by
  unfold State.dropped
  rw [ht.oldestPlaced]
  cases hh : s.table.head? with
  | none => rfl
  | some x =>
    cases hx : x.isPlaced with
    | false => simp [Option.filter, hx]
    | true =>
      obtain ⟨r, b, hxp⟩ := (Entry.isPlaced_iff x).1 hx
      simp [Option.filter, hx, hxp, hn x hh hx]

/-- A drop: the pushed record, the inbound and the entry, and the growth (R85). -/
theorem State.drop_eq {s : State} (ht : TableInv s) (hi : IntakeInv s) {younger : List Entry} {e : Entry}
    (hs : s.table = e :: younger) {r : SheetRecord} {b : Fin 8} (hp : e.state = .placed r b) :
    s.drop e r b = State.growth { s with
      table := younger
      bins := s.bins.set b { s.bins.get b with
        stack := r :: (s.bins.get b).stack, inbound := (s.bins.get b).inbound - 1 } } := by
  have leaves : EngineLeaves [] e younger younger := .inl ⟨.inl (by simp [hp]), rfl⟩
  have bins : ((s.pushRecord b r).inboundDown b).bins = s.bins.set b { s.bins.get b with
      stack := r :: (s.bins.get b).stack, inbound := (s.bins.get b).inbound - 1 } := by
    refine Oct.ext_get fun c => ?_
    simp only [State.inboundDown, State.pushRecord, State.setBin, Oct.get_set]
    split <;> simp
  unfold State.drop
  rw [State.removeEntry_settled (v := (s.pushRecord b r).inboundDown b) ht hi (older := []) hs (by simp) leaves rfl rfl rfl
    (by simp [Entry.isScanning, hp]), ← bins]
  rfl

/-- Settles O39: the oldest entry is the oldest PLACED one, or there is none. -/
theorem droppedPushesTheRecord : Obligations.DroppedPushesTheRecord := by
  intro s tag sheet h ht hi
  refine ⟨?_, fun hother => ?_⟩
  · intro e younger r b hs hp hn u
    rw [← bytesOf_eq]
    refine stacker_announces h (Reply.ok (byteOf b.val :: bytesOf ((s.bins.get b).count + 1))) ?_
    have oldest : (s.acceptFrame .stacker).oldestPlaced = some e := by
      rw [TableInv.oldestPlaced (s := s.acceptFrame .stacker) ht]
      simp [hs, Option.filter, Entry.isPlaced, hp]
    unfold State.dropped
    rw [oldest]
    dsimp only
    rw [hp]
    dsimp only
    rw [if_pos hn, State.drop_eq (s := s.acceptFrame .stacker) ht hi hs hp, ← State.growth_acceptFrame]
    rfl
  · refine station_acts h (Reply.bare .outOfOrder) ?_
    rw [State.dropped_other (s := s.acceptFrame .stacker) ht hother, State.outOfOrder, State.faultOccurs_acceptFrame]

/-! ## The take (R93, R124, R133) -/

/-- The plies of an order that fits are split at the next ply in one way. -/
theorem Active.drawn_of_split {a : Active} (h : a.fits) {done left : List ActivePly} {p : ActivePly}
    (hs : a.plies = done ++ p :: left) (hd : ∀ q ∈ done, q.taken = true) (hp : p.taken = false) :
    a.Drawn done p left := by
  obtain ⟨done', p', left', drawn⟩ := (Active.fits_iff a).1 h
  have next := (Active.next_split hs hd hp).symm.trans (Active.next_split drawn.plies drawn.done_taken drawn.next_untaken)
  have length : done.length = done'.length := by simpa using congrArg (Option.map Prod.fst) next
  obtain ⟨rfl, h2⟩ := List.append_inj (hs.symm.trans drawn.plies) length
  obtain ⟨rfl, rfl⟩ := List.cons.inj h2
  exact drawn

/-- The state of an order after a take that leaves plies (R121). -/
theorem workedOut_taken {done left : List ActivePly} {p : ActivePly} (hd : ∀ q ∈ done, q.taken = true)
    (hp : p.taken = true) (hl : ∀ q ∈ left, q.taken = false) :
    ((∃ q ∈ left, q.bin = none) → workedOut (done ++ p :: left) none = .stalled) ∧
    ((∀ q ∈ left, q.bin ≠ none) → workedOut (done ++ p :: left) none = .drawing) := by
  have unplanned : (done ++ p :: left).any ActivePly.unplanned = left.any ActivePly.unplanned := by
    have before : done.any ActivePly.unplanned = false := by
      rw [List.any_eq_false]
      intro q hq
      simp [ActivePly.unplanned, hd q hq]
    simp [before, ActivePly.unplanned, hp]
  unfold workedOut
  rw [unplanned]
  refine ⟨fun ⟨q, hq, hb⟩ => if_pos (List.any_eq_true.2 ⟨q, hq, by simp [ActivePly.unplanned, hl q hq, hb]⟩), fun hall => ?_⟩
  have none_unplanned : left.any ActivePly.unplanned = false := by
    rw [List.any_eq_false]
    intro q hq
    simpa [ActivePly.unplanned, hl q hq, Option.isNone_iff_eq_none] using hall q hq
  simp [none_unplanned, hp]

/-- A decision of the P port that announces its effect. -/
theorem press_announces {s u : State} (h : NoReset s) {tag : Byte} {body : State → State × Option Reply} (r : Reply)
    (hb : body (s.acceptFrame .press) = ((s.acceptFrame .press).announce (u.acceptFrame .press), some r)) :
    station .press tag true false body s = .next ((s.announce u).replied .press tag r.code r.payload) :=
  station_acts h r (hb.trans (by rw [State.announce_acceptFrame]))

/-- Settles O48: the called ply is the next one, and its bin's top record is taken for it. -/
theorem takenTakesTheTopRecord : Obligations.TakenTakesTheTopRecord := by
  intro s tag before after a done left p b r rest h ho hs hplies hd hp hb hcalled hstack n popped answer
  obtain ⟨m, hm⟩ := Option.ne_none_iff_exists'.1 hcalled
  have drawn := Active.drawn_of_split (((orderInv_iff s).1 ho).1.fits a (by simp [hs])) hplies hd hp
  obtain ⟨rfl, -⟩ := drawn.called m hm
  have bin : a.calledBin = some b := (Active.calledBin_split hplies hm).trans hb
  have popping : s.takeFrom b = popped := by
    unfold State.takeFrom
    rw [hstack]
    rfl
  have top : s.topRecord b = some r := by simp [State.topRecord, hstack]
  have found : (s.acceptFrame .press).findActive a.number = some a := State.findActive_split ho hs
  have free (x : Finish) : (s.takeFrom b).leaveSlot a x = popped.finishOrder (before ++ after) a.number x := by
    rw [State.leaveSlot_finishOrder, popping]
    congr 1
    exact State.freeSlot_split ho hs
  have decision : (s.acceptFrame .press).taken a.number = (s.acceptFrame .press).takeCalled a n b := by
    unfold State.taken
    rw [found]
    dsimp only
    unfold State.takeActive
    rw [hm, bin]
  have plies : (a.afterTake n s.ram.orderHoldTime).plies = done ++ { p with taken := true } :: left :=
    Active.markTaken_split hplies
  have left_untaken : untaken (a.afterTake n s.ram.orderHoldTime).plies = left.length := by
    rw [plies]
    exact untaken_split hd rfl drawn.left_untaken
  refine ⟨fun hopen => ?_, fun c hc => ?_⟩
  · have answered {u : State} (hu : s.take a n b = u) : exec (.taken .press tag a.number) s =
        .next ((s.announce u).replied .press tag .ok (answer left.length)) := by
      refine press_announces h (Reply.ok (answer left.length)) (decision.trans ?_)
      unfold State.takeCalled
      rw [State.take_acceptFrame, hu]
      have left_now : untaken (a.markTaken n) = left.length := left_untaken
      split
      next c hc => exact absurd hc (hopen c)
      all_goals
        rw [left_now, show (s.acceptFrame .press).topRecord b = some r from top]
        rfl
    refine ⟨fun hleft x hstalled hdrawing => answered ?_, fun hleft => ?_⟩
    · have state : workedOut (done ++ { p with taken := true } :: left) none = x := by
        obtain ⟨h1, h2⟩ := workedOut_taken hd (p := { p with taken := true }) rfl drawn.left_untaken
        by_cases some_unplanned : ∃ q ∈ left, q.bin = none
        · rw [h1 some_unplanned, hstalled some_unplanned]
        · have planned : ∀ q ∈ left, q.bin ≠ none := fun q hq hb => some_unplanned ⟨q, hq, hb⟩
          rw [h2 planned, hdrawing planned]
      have some_left : left.length ≠ 0 := fun h => hleft (List.length_eq_zero_iff.1 h)
      unfold State.take
      dsimp only
      rw [left_untaken, if_neg some_left, popping]
      have active := State.setActive_split (a' := a.afterTake n s.ram.orderHoldTime) ho hs rfl
      have order : a.afterTake n s.ram.orderHoldTime = { a with
          plies := done ++ { p with taken := true } :: left, called := none
          hold := some (s.ram.orderHoldTime * 1000), state := x } := by
        rw [← state, ← plies]
        rfl
      rw [← order, ← active]
      rfl
    · have finished : s.take a n b = (popped.finishOrder (before ++ after) a.number .complete).admissions := by
        unfold State.take
        dsimp only
        rw [left_untaken, if_pos (by simp [hleft]), free]
      have result := answered finished
      rwa [hleft] at result
  · refine press_announces h { code := .late, payload := answer c.code } (decision.trans ?_)
    have late : s.takeLate a b c = (popped.finishOrder (before ++ after) a.number (.aborted c)).admissions := by
      unfold State.takeLate
      rw [free]
    unfold State.takeCalled
    rw [hc]
    dsimp only
    rw [State.takeLate_acceptFrame, late, show (s.acceptFrame .press).topRecord b = some r from top]
    rfl

end Sys2Proof.Machine

namespace Sys2Proof.Machine

/-! ## The first class with a candidate, and its largest one (R82, R83, R103) -/

/-- The first hit of a list in the order of a relation. -/
theorem findSome?_ordered {α β : Type} {l : List α} {before : α → α → Prop} (asymm : ∀ x y, before x y → ¬ before y x)
    (hl : l.Pairwise before) {f : α → Option β} {b : β} :
    l.findSome? f = some b ↔ ∃ a ∈ l, f a = some b ∧ ∀ x ∈ l, before x a → f x = none := by
  induction l with
  | nil => simp
  | cons y l ih =>
    obtain ⟨first, rest⟩ := List.pairwise_cons.1 hl
    have ih := ih rest
    cases hy : f y with
    | some c =>
      simp only [List.findSome?_cons, hy, Option.some.injEq]
      constructor
      · rintro rfl
        refine ⟨y, by simp, hy, fun x hx hb => ?_⟩
        rcases List.mem_cons.1 hx with rfl | hx
        · exact absurd hb (asymm _ _ hb)
        · exact absurd hb (asymm _ _ (first x hx))
      · rintro ⟨a, ha, hf, hnone⟩
        rcases List.mem_cons.1 ha with rfl | ha
        · simpa [hy] using hf
        · simp [hnone y (by simp) (first a ha)] at hy
    | none =>
      simp only [List.findSome?_cons, hy, ih]
      constructor
      · rintro ⟨a, ha, hf, hnone⟩
        refine ⟨a, by simp [ha], hf, fun x hx hb => ?_⟩
        rcases List.mem_cons.1 hx with rfl | hx
        · exact hy
        · exact hnone x hx hb
      · rintro ⟨a, ha, hf, hnone⟩
        rcases List.mem_cons.1 ha with rfl | ha
        · simp [hy] at hf
        · exact ⟨a, ha, hf, fun x hx => hnone x (by simp [hx])⟩

/-- The largest candidate of the first class that has one. -/
theorem firstLargest_some {α : Type} {l : List α} {before : α → α → Prop} (asymm : ∀ x y, before x y → ¬ before y x)
    (hl : l.Pairwise before) {candidate : α → Fin 8 → Bool} {key : Fin 8 → Nat} {b : Fin 8} :
    (l.findSome? fun a => pickLargest (candidate a) key) = some b ↔
      ∃ a, a ∈ l ∧ candidate a b = true ∧ (∀ x, x ∈ l → before x a → ∀ i, ¬ candidate x i = true) ∧
        ∀ i, candidate a i = true → key i < key b ∨ (key i = key b ∧ b.val ≤ i.val) := by
  simp only [findSome?_ordered asymm hl, pickLargest_some, pickLargest_none, Bool.not_eq_true]
  constructor
  · rintro ⟨a, ha, ⟨hb, hmost⟩, hnone⟩
    exact ⟨a, ha, hb, hnone, hmost⟩
  · rintro ⟨a, ha, hb, hnone, hmost⟩
    exact ⟨a, ha, ⟨hb, hmost⟩, hnone⟩

theorem firstLargest_none {α : Type} {l : List α} {candidate : α → Fin 8 → Bool} {key : Fin 8 → Nat} :
    (l.findSome? fun a => pickLargest (candidate a) key) = none ↔ ∀ a i, a ∈ l → ¬ candidate a i = true := by
  simp only [List.findSome?_eq_none_iff, pickLargest_none, Bool.not_eq_true]
  exact ⟨fun h a i ha => h a ha i, fun h a ha i => h a i ha⟩

theorem forall_grade {P : Grade → Prop} : (∀ g, P g) ↔ P .a ∧ P .b ∧ P .c ∧ P .d :=
  ⟨fun h => ⟨h _, h _, h _, h _⟩, fun ⟨ha, hb, hc, hd⟩ g => by cases g <;> assumption⟩

/-! ## The placement walk (R82, R83) -/

/-- The classes that the walk looks in, in its order (R83). -/
def walkClasses (r : Settings) : BinClass → List BinClass
  | .grade g => (walkGrades r g).map BinClass.grade
  | k => [k]

/-- A bin that the walk may choose in a class (R82). -/
def walkFits (bins : Oct Bin) (k : BinClass) (i : Fin 8) : Bool :=
  (bins.get i).mode = .opened && (bins.get i).cls = k && (bins.get i).room

theorem walk_eq (r : Settings) (bins : Oct Bin) (k : BinClass) :
    walk r bins k = (walkClasses r k).findSome? fun h =>
      pickLargest (walkFits bins h) fun i => (bins.get i).count + (bins.get i).inbound := by
  have one (k : BinClass) : walkIn bins k = [k].findSome? fun h =>
      pickLargest (walkFits bins h) fun i => (bins.get i).count + (bins.get i).inbound := by
    rw [List.findSome?_singleton]
    rfl
  cases k with
  | grade g =>
    rw [walkClasses, List.findSome?_map]
    rfl
  | patch => exact one .patch
  | redry => exact one .redry
  | reinspect => exact one .reinspect

/-- The walk goes from a grade to the worse ones, as far as the degrade settings lead. -/
theorem mem_walkGrades (r : Settings) (g h : Grade) : h ∈ walkGrades r g ↔
    h = g ∨ (g.code < h.code ∧ ∀ x : Grade, g.code ≤ x.code → x.code < h.code → degrades r x = true) := by
  rw [forall_grade]
  cases g <;> cases h <;> cases ha : r.degradeA <;> cases hb : r.degradeB <;> cases hc : r.degradeC <;>
    simp [walkGrades, degrades, Grade.code, ha, hb, hc]

theorem walkGrades_ordered (r : Settings) (g : Grade) : (walkGrades r g).Pairwise fun x y => x.code < y.code := by
  cases g <;> cases ha : r.degradeA <;> cases hb : r.degradeB <;> cases hc : r.degradeC <;>
    simp [walkGrades, degrades, Grade.code, ha, hb, hc]

theorem walkClasses_ordered (r : Settings) (k : BinClass) : (walkClasses r k).Pairwise fun x y => x.code < y.code := by
  cases k with
  | grade g => exact List.pairwise_map.2 (walkGrades_ordered r g)
  | _ => exact List.pairwise_singleton _ _

theorem mem_walkClasses (r : Settings) (k h : BinClass) : h ∈ walkClasses r k ↔
    h = k ∨ ∃ g g', k = .grade g ∧ h = .grade g' ∧ g.code < g'.code ∧
      ∀ x : Grade, g.code ≤ x.code → x.code < g'.code → degrades r x = true := by
  cases k with
  | grade g =>
    simp only [walkClasses, List.mem_map, mem_walkGrades]
    constructor
    · rintro ⟨x, rfl | hx, rfl⟩
      · exact .inl rfl
      · exact .inr ⟨g, x, rfl, rfl, hx⟩
    · rintro (rfl | ⟨y, x, hy, rfl, hx⟩)
      · exact ⟨g, .inl rfl, rfl⟩
      · cases hy
        exact ⟨x, .inr hx, rfl⟩
  | _ => simp [walkClasses]

/-- Settles O36: the walk is the largest candidate of the first of its classes that has one. -/
theorem placementWalkChoosesTheFullestOpenBin : Obligations.PlacementWalkChoosesTheFullestOpenBin := by
  intro r bins k passes looked load fits
  have steps (g : Grade) : passes g = degrades r g := by cases g <;> rfl
  have classes (h : BinClass) : looked h ↔ h ∈ walkClasses r k := by
    simp only [looked, steps, mem_walkClasses]
  have candidates (h : BinClass) (i : Fin 8) : fits h i ↔ walkFits bins h i = true := by
    simp [fits, load, walkFits, Bin.room, and_assoc]
  simp only [classes, candidates, walk_eq]
  exact ⟨fun b => firstLargest_some (fun x y h => by omega) (walkClasses_ordered r k), firstLargest_none⟩

/-! ## The ply choice and the plan (R103, R104, R107) -/

/-- A bin that the ply choice may find in a grade (R103). -/
def choiceFits (bins : Oct Bin) (avail : Oct Nat) (g : Grade) (i : Fin 8) : Bool :=
  (bins.get i).mode ≠ .offline && (bins.get i).cls = .grade g && 0 < avail.get i

theorem plyClasses_ordered (p : Ply) : p.classes.Pairwise fun x y => y.code < x.code := by
  obtain ⟨g, x⟩ := p
  cases g <;> cases x <;> decide

theorem mem_plyClasses (p : Ply) (g : Grade) :
    g ∈ p.classes ↔ g = p.grade ∨ (p.substitute = true ∧ g.code < p.grade.code) := by
  obtain ⟨h, x⟩ := p
  cases h <;> cases x <;> cases g <;> decide

/-- A plan is made ply by ply, each from what those before it left (R104). -/
theorem planPlies_some (bins : Oct Bin) (avail : Oct Nat) (plies : List Ply) (bs : List (Fin 8)) :
    planPlies bins avail plies = some bs ↔ bs.length = plies.length ∧ ∀ n p, plies[n]? = some p →
      plyChoice bins (Oct.of fun i => avail.get i - (bs.take n).count i) p = bs[n]? := by
  induction plies generalizing avail bs with
  | nil => simp [planPlies, eq_comm (a := ([] : List (Fin 8)))]
  | cons p rest ih =>
    have start : (Oct.of fun i => avail.get i - ([] : List (Fin 8)).count i) = avail := Oct.ext_get fun i => by simp
    cases bs with
    | nil =>
      rw [planPlies]
      cases plyChoice bins avail p <;> simp
    | cons b bs =>
      have lowered (n : Nat) : (Oct.of fun i => avail.get i - ((b :: bs).take (n + 1)).count i) =
          Oct.of fun i => (avail.set b (avail.get b - 1)).get i - (bs.take n).count i := by
        refine Oct.ext_get fun i => ?_
        rw [Oct.get_of, Oct.get_of, Oct.get_set, List.take_succ_cons, List.count_cons]
        by_cases h : i = b
        · subst h
          simp
          omega
        · simp [h, Ne.symm h]
      have plan : planPlies bins avail (p :: rest) = some (b :: bs) ↔
          plyChoice bins avail p = some b ∧ planPlies bins (avail.set b (avail.get b - 1)) rest = some bs := by
        rw [planPlies]
        cases hc : plyChoice bins avail p with
        | none => simp
        | some c =>
          simp only [Option.map_eq_some_iff, List.cons.injEq, Option.some.injEq]
          constructor
          · rintro ⟨cs, h, rfl, rfl⟩
            exact ⟨rfl, h⟩
          · rintro ⟨rfl, h⟩
            exact ⟨bs, h, rfl, rfl⟩
      rw [plan, ih]
      constructor
      · rintro ⟨hb, hlen, hrest⟩
        refine ⟨by simp [hlen], fun n q hq => ?_⟩
        cases n with
        | zero =>
          obtain rfl : p = q := by simpa using hq
          rw [List.take_zero, start]
          simpa using hb
        | succ n =>
          rw [lowered]
          simpa using hrest n q (by simpa using hq)
      · rintro ⟨hlen, hall⟩
        refine ⟨?_, by simpa using hlen, fun n q hq => ?_⟩
        · have first := hall 0 p rfl
          rw [List.take_zero, start] at first
          simpa using first
        · have next := hall (n + 1) q (by simpa using hq)
          rw [lowered] at next
          simpa using next

/-- Settles O43: the choice is the largest candidate of the first grade that has one, and a plan is a row of choices. -/
theorem plyChoiceIsTheLargestSourceInOrder : Obligations.PlyChoiceIsTheLargestSourceInOrder := by
  refine ⟨fun bins i => by rw [availableNow, Oct.get_of]; rfl, fun bins avail => ⟨?_, planPlies_some bins avail⟩⟩
  intro p looked fits
  have classes (g : Grade) : looked g ↔ g ∈ p.classes := (mem_plyClasses p g).symm
  have candidates (g : Grade) (i : Fin 8) : fits g i ↔ choiceFits bins avail g i = true := by
    simp [fits, choiceFits, and_assoc]
  simp only [classes, candidates]
  exact ⟨fun b => firstLargest_some (fun x y h => by omega) (plyClasses_ordered p), firstLargest_none⟩

end Sys2Proof.Machine

namespace Sys2Proof.Machine

/-! ## The lines and the outputs (R173, R180 to R186) -/

/-- A debounced level that becomes active is a change of the line, announced with what it changed. -/
theorem exec_lineEdge_change {s : State} (hp : s.porstLow = false) (k : Fin 8) :
    exec (.lineEdge k) s = .next (s.lineChange k true fun s => s.announce (s.lineEdge k)) :=
  powered_next hp fun s => s.lineChange k true fun s => s.announce (s.lineEdge k)

theorem exec_debouncedLevelInactive_change {s : State} (hp : s.porstLow = false) (k : Fin 8) :
    exec (.debouncedLevelInactive k) s = .next (s.lineChange k false fun s => { s with
      lines := s.lines.set k ((s.lines.get k).settle false (s.ram.lineInvert.get k)) }) :=
  powered_next hp fun s => s.lineChange k false fun s => { s with
    lines := s.lines.set k ((s.lines.get k).settle false (s.ram.lineInvert.get k)) }

/-- A change of one line alone has nothing to announce. -/
theorem State.announce_setLines (s : State) (l : Oct Line) : s.announce { s with lines := l } = { s with lines := l } :=
  State.announce_eq rfl rfl

/-- An edge of a line that empties no bin, or an OFFLINE one (R95, R182). -/
theorem State.lineEdge_aside {s : State} {k : Fin 8}
    (h : ∀ b, s.ram.lineFunction.get k = .inBinEmptied b → (s.bins.get b).mode = .offline) :
    s.lineEdge k = { s with
      lines := s.lines.set k { (s.lines.get k).settle true (s.ram.lineInvert.get k) with latch := true } } := by
  unfold State.lineEdge
  dsimp only
  cases hf : s.ram.lineFunction.get k with
  | inBinEmptied b => exact if_pos (h b hf)
  | _ => rfl

/-- FAULT_N is asserted while a pending kind is enabled (R173). -/
theorem State.faultN_iff {s : State} (hp : s.porstLow = false) :
    s.faultN = true ↔ ∃ j : FaultKind, (s.faults.get j).pending = true ∧ s.ram.faultMask / 2 ^ j.code % 2 = 1 := by
  have listed (j : FaultKind) : j ∈ faultKinds := by cases j <;> decide
  simp [State.faultN, hp, State.faultAsserted, listed, Nat.testBit_eq_decide_div_mod_eq]

theorem bne_bne_self_right (c i : Bool) : ((c != i) != i) = c := by cases c <;> cases i <;> rfl

/-- Settles O42: the three cases of a line's change, and the condition of each output function. -/
theorem lineEdgesAreLatchedAndOutputsDriven : Obligations.LineEdgesAreLatchedAndOutputsDriven := by
  intro s k hp set faultEnabled
  have drive : s.lineDrive k = (s.outputCondition (s.ram.lineFunction.get k)).map fun c => c != s.ram.lineInvert.get k := by
    rw [State.lineDrive, hp]
    rfl
  refine ⟨fun hl => ?_, fun hl => ?_, fun hl => ⟨fun hd hb => ?_, fun hd => ?_⟩, fun hl => ⟨fun hd => ?_, fun hd => ?_⟩,
    State.faultN_iff hp, ?_⟩
  · rw [exec_lineEdge_change hp, State.lineChange, if_pos hl]
  · rw [exec_debouncedLevelInactive_change hp, State.lineChange, if_pos hl]
  · rw [exec_lineEdge hp hl hd, State.lineEdge_aside hb, State.announce_setLines]
    simp [set, Line.settle]
  · rw [exec_lineEdge_change hp, State.lineChange, if_neg hl, Bool.not_true, if_neg hd]
  · rw [exec_debouncedLevelInactive_change hp, State.lineChange, if_neg hl, Bool.not_false, if_pos hd]
    simp [set, Line.settle]
  · rw [exec_debouncedLevelInactive_change hp, State.lineChange, if_neg hl, Bool.not_false, if_neg hd]
  · rw [drive]
    cases hf : s.ram.lineFunction.get k with
    | off | inGeneral | inBinEmptied => exact ⟨false, rfl, trivial⟩
    | outLineHold => exact ⟨_, rfl, bne_bne_self_right _ _⟩
    | outBinFull => exact ⟨_, rfl, bne_bne_self_right _ _⟩
    | outFault =>
      refine ⟨_, rfl, ?_⟩
      dsimp only
      rw [bne_bne_self_right]
      exact State.faultN_iff hp
    | outOrderReady =>
      refine ⟨_, rfl, ?_⟩
      dsimp only
      rw [bne_bne_self_right]
      simp [State.orderReady]

/-! ## A frame answered, and the rest of the state (R151, R155) -/

/-- A port that holds an answer, where the frame's command changed no port but in its flags. -/
theorem answeredOn_replied {s u : State} (h : SamePortsButFlags s u) (p : Port) (tag : Byte) (code : ResultCode)
    (payload : List Byte) : AnsweredOn s (u.replied p tag code payload) p tag code payload := by
  refine ⟨fun q hq => ?_, ?_⟩
  · rw [State.replied, State.setPort_port, if_neg hq]
    exact h q
  · rw [State.replied, State.setPort_port, if_pos rfl, h p]

/-- An answer changes no flag. -/
theorem FlagsRaised.replied {s u : State} {l : List (Port × Nat)} (h : FlagsRaised s u l) (p : Port) (tag : Byte)
    (code : ResultCode) (payload : List Byte) : FlagsRaised s (u.replied p tag code payload) l := by
  intro q n hn
  rw [State.replied, State.setPort_port, ← h q n hn]
  split
  next hq => rw [hq]
  next => rfl

/-! ## BIN_STATE (R70, R73, R76) -/

theorem BinMode.ofCode_code (m : BinMode) : BinMode.ofCode m.code = some m := by cases m <;> rfl

theorem BinMode.ofCode_none {n : Nat} (h : 3 ≤ n) : BinMode.ofCode n = none := by
  obtain ⟨m, rfl⟩ := Nat.exists_eq_add_of_le' h
  rfl

/-- BIN_STATE's decision, its arguments read. -/
theorem State.binState_eq (s : State) {bin requested : Byte} {b : Fin 8} {m : BinMode} (hb : bin.toNat = b.val)
    (hm : requested.toNat = m.code) :
    s.binState bin requested =
      if s.op ≠ .idle ∧ m = .opened then (s, some (Reply.bare .retry)) else s.decideBin b m := by
  unfold State.binState
  rw [hb, hm, binNumber_val, BinMode.ofCode_code]
  simp [State.settingsBusy, unchanged]

/-- The requests that the table of R73 refuses. -/
def BinRefuses (r : Bin) (m : BinMode) : Prop :=
  (m = .opened ∧ r.mode = .opened) ∨ (m = .closed ∧ r.mode ≠ .opened) ∨
    (m = .offline ∧ r.mode ≠ .offline ∧ (r.count ≠ 0 ∨ r.inbound ≠ 0 ∨ r.reserved ≠ 0))

/-- The requests that the table of R73 carries out. -/
def BinChanges (r : Bin) (m : BinMode) : Prop :=
  (m = .opened ∧ r.mode ≠ .opened) ∨ (m = .closed ∧ r.mode = .opened) ∨
    (m = .offline ∧ r.mode ≠ .offline ∧ r.count = 0 ∧ r.inbound = 0 ∧ r.reserved = 0)

theorem State.decideBin_refused {s : State} {b : Fin 8} {m : BinMode} (h : BinRefuses (s.bins.get b) m) :
    s.decideBin b m = (s, some (Reply.bare .refused)) := by
  unfold State.decideBin
  dsimp only
  rcases h with ⟨rfl, h⟩ | ⟨rfl, h⟩ | ⟨rfl, h, held⟩
  · rw [h]
    rfl
  · cases hm : (s.bins.get b).mode with
    | opened => exact absurd hm h
    | _ => rfl
  · have some_held : ¬ ((s.bins.get b).count = 0 ∧ (s.bins.get b).inbound = 0 ∧ (s.bins.get b).reserved = 0) := by
      rintro ⟨h1, h2, h3⟩
      exact held.elim (fun h => h h1) (·.elim (fun h => h h2) fun h => h h3)
    cases hm : (s.bins.get b).mode with
    | offline => exact absurd hm h
    | _ => exact if_neg some_held

theorem State.decideBin_changes {s : State} {b : Fin 8} {m : BinMode} (h : BinChanges (s.bins.get b) m) :
    s.decideBin b m = s.changeBin b m := by
  unfold State.decideBin
  dsimp only
  rcases h with ⟨rfl, h⟩ | ⟨rfl, h⟩ | ⟨rfl, h, empty⟩
  · cases hm : (s.bins.get b).mode with
    | opened => exact absurd hm h
    | _ => rfl
  · rw [h]
  · cases hm : (s.bins.get b).mode with
    | offline => exact absurd hm h
    | _ => exact if_pos empty

theorem State.decideBin_offline {s : State} {b : Fin 8} (h : (s.bins.get b).mode = .offline) :
    s.decideBin b .offline = (s, some (Reply.ok [])) := by
  unfold State.decideBin
  dsimp only
  rw [h]
  rfl

/-- The state after a bin's change of state. -/
def State.binChanged (s : State) (b : Fin 8) (m : BinMode) : State :=
  s.announce ((s.setBin b ({ s.bins.get b with mode := m }.follow s.ram b)).raise .binChanged)

theorem State.changeBin_eq (s : State) (b : Fin 8) (m : BinMode) : s.changeBin b m = (s.binChanged b m, some (Reply.ok [])) :=
  rfl

theorem State.binChanged_acceptFrame (s : State) (p : Port) (b : Fin 8) (m : BinMode) :
    (s.acceptFrame p).binChanged b m = (s.binChanged b m).acceptFrame p := by
  unfold State.binChanged
  rw [← State.announce_acceptFrame, ← State.raise_acceptFrame]
  rfl

theorem State.binChanged_ports (s : State) (b : Fin 8) (m : BinMode) : SamePortsButFlags s (s.binChanged b m) :=
  SamePortsButFlags.trans (State.raise_same (s.setBin b _) .binChanged) (s.announce_same _)

theorem State.binChanged_bins (s : State) (b : Fin 8) (m : BinMode) :
    (s.binChanged b m).bins = s.bins.set b ({ s.bins.get b with mode := m }.follow s.ram b) := by
  simp [State.binChanged, State.setBin]

/-- The flags of a bin's change of state: a full condition that changed with it sets no more (R76). -/
theorem State.binChanged_raised (s : State) (b : Fin 8) (m : BinMode) :
    FlagsRaised s (s.binChanged b m) ([(.line, 7), (.stacker, 7)] ++ holdFlag s (s.binChanged b m)) := by
  generalize hv : (s.setBin b ({ s.bins.get b with mode := m }.follow s.ram b)).raise .binChanged = v
  have announced : s.binChanged b m = s.announce v := by rw [← hv]; rfl
  have first : FlagsRaised s v Event.binChanged.bits := by rw [← hv]; exact State.raise_raised (s.setBin b _) .binChanged
  rw [announced]
  refine (first.trans (s.announce_raised v)).congr fun pn => ?_
  have hold : holdFlag s (s.announce v) = holdFlag s v := by rw [holdFlag, State.announce_lineHold, holdFlag]
  rw [hold]
  by_cases hf : fullBins s.bins = fullBins v.bins <;> simp [fullFlags, hf, Event.bits]
  tauto

/-- Settles O32: the table of R73, request by request. -/
theorem binStateFollowsItsTable : Obligations.BinStateFollowsItsTable := by
  intro s tag bin requested h
  refine ⟨fun hbad => ?_, fun b m hb hm => ?_⟩
  · refine station_answers h (Reply.bare .badArgument) ?_
    unfold State.binState
    rcases hbad with hbad | hbad
    · rw [binNumber_none hbad]
      rfl
    · rw [BinMode.ofCode_none hbad]
      cases binNumber bin.toNat <;> rfl
  have decision (hidle : m = .opened → s.op = .idle) :
      (s.acceptFrame .line).binState bin requested = (s.acceptFrame .line).decideBin b m := by
    rw [State.binState_eq _ hb hm, if_neg]
    rintro ⟨hop, ho⟩
    exact hop (hidle ho)
  have refuses (hidle : m = .opened → s.op = .idle) (hr : BinRefuses (s.bins.get b) m) :
      exec (.binState .line tag bin requested) s = .next (s.replied .line tag .refused []) :=
    station_answers h (Reply.bare .refused)
      ((decision hidle).trans (State.decideBin_refused (s := s.acceptFrame .line) hr))
  have changes (hidle : m = .opened → s.op = .idle) (hc : BinChanges (s.bins.get b) m) :
      exec (.binState .line tag bin requested) s = .next ((s.binChanged b m).replied .line tag .ok []) := by
    refine station_acts h (Reply.ok []) ((decision hidle).trans ?_)
    rw [State.decideBin_changes (s := s.acceptFrame .line) hc, State.changeBin_eq, State.binChanged_acceptFrame]
  refine ⟨fun ho hop => ?_, fun hr => ?_, fun ho hmode => ?_, fun hc => ⟨(s.binChanged b m).replied .line tag .ok [], ?_,
    answeredOn_replied (s.binChanged_ports b m) _ _ _ _, fun hm => ?_, fun hm => ?_, fun c hc => ?_, ?_, ?_⟩⟩
  · refine station_answers h (Reply.bare .retry) ?_
    rw [State.binState_eq _ hb hm, if_pos ⟨hop, ho⟩]
  · rcases hr with ⟨ho, hop, hmode⟩ | ⟨hcl, hmode⟩ | ⟨hoff, hmode⟩
    · exact refuses (fun _ => hop) (.inl ⟨ho, hmode⟩)
    · exact refuses (fun ho => by cases hcl.symm.trans ho) (.inr (.inl ⟨hcl, hmode⟩))
    · exact refuses (fun ho => by cases hoff.symm.trans ho) (.inr (.inr ⟨hoff, hmode⟩))
  · subst ho
    exact station_answers h (Reply.ok [])
      ((decision nofun).trans (State.decideBin_offline (s := s.acceptFrame .line) hmode))
  · rcases hc with ⟨ho, hmode, hop⟩ | ⟨hcl, hmode⟩ | ⟨hoff, hmode⟩
    · exact changes (fun _ => hop) (.inl ⟨ho, hmode⟩)
    · exact changes (fun ho => by cases hcl.symm.trans ho) (.inr (.inl ⟨hcl, hmode⟩))
    · exact changes (fun ho => by cases hoff.symm.trans ho) (.inr (.inr ⟨hoff, hmode⟩))
  · show (s.binChanged b m).bins.get b = _
    rw [State.binChanged_bins, Oct.get_set_self, Bin.follow, if_neg hm]
  · subst hm
    show (s.binChanged b .offline).bins.get b = _
    rw [State.binChanged_bins, Oct.get_set_self, Bin.follow, if_pos rfl]
  · show (s.binChanged b m).bins.get c = _
    rw [State.binChanged_bins, Oct.get_set_ne _ _ hc]
  · exact (s.binChanged_raised b m).replied _ _ _ _
  · simp [SameSheets, SameReceiver, SameIntake, SameTable, SameOrders, SameFaults, SameSettings, SamePins, State.replied,
      State.setPort, State.binChanged, State.setBin]

end Sys2Proof.Machine

namespace Sys2Proof.Machine

/-! ## The settings by their keys (Table 10-2, R189, R190) -/

theorem allSettings_keys : (allSettings.map Setting.key).Pairwise (· < ·) := by
  rw [← List.isChain_iff_pairwise]
  decide +kernel

/-- No two settings share a key, so a key names its setting. -/
theorem settingOfKey_key (x : Setting) : settingOfKey x.key = some x := by
  obtain ⟨y, hy⟩ := Option.isSome_iff_exists.1
    (List.find?_isSome.2 ⟨x, x.listed, by simp⟩ : (allSettings.find? fun y => y.key == x.key).isSome = true)
  have key : y.key = x.key := by simpa using List.find?_some hy
  have distinct : (allSettings.map Setting.key).Nodup := allSettings_keys.imp fun h => Nat.ne_of_lt h
  have same : y = x := List.inj_on_of_nodup_map distinct (List.mem_of_find?_eq_some hy) x.listed key
  rw [settingOfKey, hy, same]

/-- A code of the set is taken as it is (R190). -/
theorem Domain.take_codes {cs : List Nat} {n : Nat} (h : n ∈ cs) : (Domain.codes cs).take n = some (n, false) :=
  if_pos (List.contains_iff_mem.2 h)

/-- A number is taken clamped to the range (R190). -/
theorem Domain.take_range {low high n v : Nat} {clamped : Bool} (range : low ≤ high) (hv : v = max low (min high n))
    (hc : clamped = true ↔ n < low ∨ high < n) : (Domain.range low high).take n = some (v, clamped) := by
  unfold Domain.take
  by_cases below : n < low
  · have value : v = low := by omega
    simp [below, value, hc.2 (.inl below)]
  · by_cases above : high < n
    · have value : v = high := by omega
      simp [below, above, value, hc.2 (.inr above)]
    · have value : v = n := by omega
      have not_clamped : clamped = false := by
        by_contra hne
        exact (hc.1 (by simpa using hne)).elim below above
      simp [below, above, value, not_clamped]

/-- An OFFLINE bin that fits is not full: it is empty, and its capacity above its effective margin (R75). -/
theorem BinFits.not_full {r : Bin} {b : Fin 8} {coming : List (Option BinClass)} {ram : Settings}
    (h : BinFits r b coming ram) (ho : r.mode = .offline) : r.full = false := by
  obtain ⟨count, inbound, -⟩ := h.offline ho
  obtain ⟨capacity, -⟩ := h.range
  rw [Bin.full, Bin.effMargin, count, inbound, decide_eq_false_iff_not]
  omega

/-- New settings change no full condition: the bins that follow them are OFFLINE (R70, R189). -/
theorem BinInv.install_full {s : State} (h : BinInv s) {r : Settings} (hr : r.fits) :
    fullBins (s.install r).bins = fullBins s.bins := by
  rw [fullBins_eq_iff]
  intro b
  simp only [State.install, Oct.get_of]
  have fits := (binInv_iff s).1 h b
  by_cases ho : (s.bins.get b).mode = .offline
  · rw [fits.not_full ho]
    exact (fits.follow hr).not_full ((Bin.follow_mode _ _ _).trans ho)
  · rw [Bin.follow, if_neg ho]

theorem State.install_acceptFrame (s : State) (p : Port) (r : Settings) :
    (s.acceptFrame p).install r = (s.install r).acceptFrame p := rfl

/-- SET_SETTING of a setting whose gate is open, with a value that it takes (R190). -/
theorem State.setSetting_eq {s : State} {x : Setting} {key : Word} {value : BitVec 32} {v : Nat} {clamped : Bool}
    (hop : s.op = .idle) (hkey : key.toNat = x.key) (hgate : s.mayWrite x = true)
    (htake : x.domain.take value.toNat = some (v, clamped)) :
    s.setSetting key value = (s.announce (s.install (s.ram.set x v)),
      some { code := if clamped then .clamped else .ok, payload := settingPayload key v }) := by
  have idle : s.settingsBusy = false := by simp [State.settingsBusy, hop]
  unfold State.setSetting
  rw [idle, hkey, settingOfKey_key]
  unfold State.writeSetting
  dsimp only
  rw [hgate, htake]
  rfl

theorem State.mayWrite_iff (s : State) (x : Setting) : s.mayWrite x = true ↔
    (x.kind = .grading → s.quiet = true) ∧ ∀ b, x.kind = .bin b → (s.bins.get b).mode = .offline := by
  unfold State.mayWrite
  split
  next h => simp [h]
  next h => simp [h]
  next b h => simp [h]

/-- A line under new settings keeps its record where its two settings stand (R179). -/
theorem State.install_line_kept {s : State} {r : Settings} {k : Fin 8}
    (h1 : r.lineFunction.get k = s.ram.lineFunction.get k) (h2 : r.lineInvert.get k = s.ram.lineInvert.get k) :
    (s.install r).lines.get k = s.lines.get k := by
  simp only [State.install, Oct.get_of]
  exact if_pos ⟨h1.symm, h2.symm⟩

/-- A line under new settings is reconfigured where one of its two settings changed (R179). -/
theorem State.install_line_changed {s : State} {r : Settings} {k : Fin 8}
    (h : r.lineFunction.get k ≠ s.ram.lineFunction.get k ∨ r.lineInvert.get k ≠ s.ram.lineInvert.get k) :
    (s.install r).lines.get k = (s.lines.get k).reconfigure (r.lineFunction.get k) (r.lineInvert.get k) := by
  simp only [State.install, Oct.get_of]
  exact if_neg fun ⟨h1, h2⟩ => h.elim (fun h => h h1.symm) fun h => h h2.symm

/-- Settles O30: the one setting installed, its owner's follow-up, and what is announced. -/
theorem setSettingInstallsOneSetting : Obligations.SetSettingInstallsOneSetting := by
  intro s tag x key value v clamped h hsettings hbins hop hkey hgrading hbin hvalue
  have take : x.domain.take value.toNat = some (v, clamped) := by
    have range := x.domain_range
    cases hd : x.domain with
    | codes cs =>
      rw [hd] at hvalue
      obtain ⟨hn, rfl, rfl⟩ := hvalue
      exact Domain.take_codes hn
    | range low high =>
      rw [hd] at hvalue
      exact Domain.take_range (range low high hd) hvalue.1 hvalue.2
  have holds := Domain.take_holds x.domain_range take
  have gate := (s.mayWrite_iff x).2 ⟨hgrading, hbin⟩
  have fits : (s.ram.set x v).fits := Settings.fits.set hsettings holds
  have announced : s.announce (s.install (s.ram.set x v)) =
      (s.install (s.ram.set x v)).raiseIf (s.lineHold != (s.install (s.ram.set x v)).lineHold) .holdChanged := by
    rw [State.announce, hbins.install_full fits, bne_self_eq_false, State.raiseIf_false]
  generalize hu : s.install (s.ram.set x v) = u at announced
  have ram : u.ram = s.ram.set x v := by rw [← hu]; rfl
  have port (p : Port) : u.port p = s.port p := by rw [← hu]; rfl
  have raised : FlagsRaised s (s.announce u) (holdFlag s (s.announce u)) := by
    rw [holdFlag, State.announce_lineHold, announced]
    intro p n hn
    rw [u.raiseIf_raised _ _ p n hn, port]
    by_cases hh : s.lineHold = u.lineHold <;> simp [hh, Event.bits]
  have same : SamePortsButFlags s (s.announce u) := by
    intro p
    rw [s.announce_same u p, port]
  refine ⟨(s.announce u).replied .line tag (if clamped then .clamped else .ok)
    (wordBytes key ++ wordBytes (BitVec.ofNat 16 v)), ?_, answeredOn_replied same _ _ _ _, ?_, fun y hy => ?_,
    fun b hb => ?_, fun b hb => ?_, fun k => ?_, fun k => ?_, raised.replied _ _ _ _, ?_⟩
  · rw [← bytesOf_eq]
    refine station_acts h { code := if clamped then .clamped else .ok, payload := settingPayload key v } ?_
    rw [State.setSetting_eq (s := s.acceptFrame .line) hop hkey gate take, State.install_acceptFrame,
      State.announce_acceptFrame, ← hu]
    rfl
  · show (s.announce u).ram.get x = v
    rw [State.announce_ram, ram, Settings.get_set_self _ holds]
  · show (s.announce u).ram.get y = _
    rw [State.announce_ram, ram, Settings.get_set_ne _ _ hy]
  · show (s.announce u).bins.get b = _
    rw [State.announce_bins, ← hu]
    simp only [State.install, Oct.get_of]
    exact if_neg hb
  · show (s.announce u).bins.get b = { s.bins.get b with
      cls := (s.announce u).ram.binClass.get b, capacity := (s.announce u).ram.binCapacity.get b
      margin := (s.announce u).ram.binMargin.get b }
    rw [State.announce_bins, State.announce_ram, ← hu]
    simp only [State.install, Oct.get_of]
    exact if_pos hb
  · show (s.announce u).ram.lineFunction.get k = _ → (s.announce u).ram.lineInvert.get k = _ → (s.announce u).lines.get k = _
    rw [State.announce_ram, State.announce_lines, ram, ← hu]
    exact State.install_line_kept
  · intro changed
    replace changed : (s.ram.set x v).lineFunction.get k ≠ s.ram.lineFunction.get k ∨
        (s.ram.set x v).lineInvert.get k ≠ s.ram.lineInvert.get k := by
      have ram' : (s.announce u).ram = s.ram.set x v := by rw [State.announce_ram, ram]
      rw [← ram']
      exact changed
    have line : (s.announce u).lines.get k = (s.lines.get k).reconfigure ((s.announce u).ram.lineFunction.get k)
        ((s.announce u).ram.lineInvert.get k) := by
      rw [State.announce_ram, State.announce_lines, ram, ← hu]
      exact State.install_line_changed changed
    refine Eq.trans line ?_
    unfold Line.reconfigure Line.changeDue Config.debounceMs
    cases (s.lines.get k).debounced with
    | none =>
      simp only [Option.map_none, ite_self, Option.none_or]
      rfl
    | some d =>
      by_cases h8 : 8 ≤ (s.lines.get k).differ <;> simp only [h8, if_true, if_false] <;> rfl
  · simp [SameSheets, SameReceiver, SameIntake, SameTable, SameOrders, SameFaults, SamePins, State.replied, State.setPort,
      ← hu, State.install]

end Sys2Proof.Machine

namespace Sys2Proof.Machine

/-! ## Refusals (R153) -/

/-- A decision on a state: one that answers OK, CLAMPED or LATE may change what it will; another answer comes with no
change, or is OUT_OF_ORDER and an occurrence of that kind; and one without an answer leaves the port's buffer empty. -/
def RefusesPlainly (p : Port) (u : State) (x : State × Option Reply) : Prop :=
  match x.2 with
  | none => (x.1.port p).answer = none
  | some r => (r.code = .ok ∨ r.code = .clamped ∨ r.code = .late) ∨ (r.code ≠ .outOfOrder ∧ x.1 = u) ∨
      (r = Reply.bare .outOfOrder ∧ x.1 = u.faultOccurs .outOfOrder)

theorem RefusesPlainly.ok (p : Port) (u v : State) (l : List Byte) : RefusesPlainly p u (v, some (Reply.ok l)) :=
  .inl (.inl rfl)

theorem RefusesPlainly.unchanged (p : Port) (u : State) {r : Reply} (h : r.code ≠ .outOfOrder) :
    RefusesPlainly p u (unchanged u r) := .inr (.inl ⟨h, rfl⟩)

theorem RefusesPlainly.bare (p : Port) (u : State) {c : ResultCode} (h : c ≠ .outOfOrder := by decide) :
    RefusesPlainly p u (Machine.unchanged u (Reply.bare c)) := .unchanged p u h

theorem RefusesPlainly.outOfOrder (p : Port) (u : State) : RefusesPlainly p u u.outOfOrder := .inr (.inr ⟨rfl, rfl⟩)

theorem RefusesPlainly.readBin (p : Port) (u : State) (bin : BitVec 7) (depth : BitVec 9) :
    RefusesPlainly p u (u.readBin bin depth) := by
  unfold State.readBin
  split
  · split
    · exact .ok p u u _
    · exact .bare p u
  · exact .bare p u

theorem State.readSheet_code (u : State) (sheet : Word) (part selector : Byte) :
    (u.readSheet sheet part selector).code ≠ .outOfOrder := by
  unfold State.readSheet
  split
  · decide
  · dsimp only
    split <;> simp [Reply.ok, Reply.bare]

theorem RefusesPlainly.start (p : Port) (u : State) : RefusesPlainly p u u.start := by
  unfold State.start
  split
  · exact .bare p u
  · split
    · exact .bare p u
    · split
      · exact .ok p u _ _
      · exact .ok p u u _

theorem RefusesPlainly.setSetting (p : Port) (u : State) (key : Word) (value : BitVec 32) :
    RefusesPlainly p u (u.setSetting key value) := by
  unfold State.setSetting
  split
  · exact .bare p u
  · split
    · exact .bare p u
    · unfold State.writeSetting
      split
      · exact .bare p u
      · split
        · exact .bare p u
        next held clamped _ =>
          refine .inl ?_
          cases clamped
          · exact .inl rfl
          · exact .inr (.inl rfl)

theorem State.getSetting_code (u : State) (key : Word) : (u.getSetting key).code ≠ .outOfOrder := by
  unfold State.getSetting
  split
  · decide
  · split <;> simp [Reply.ok, Reply.bare]

theorem RefusesPlainly.loadSettings (p : Port) (u : State) : RefusesPlainly p u u.loadSettings := by
  unfold State.loadSettings
  split
  · exact .bare p u
  · split
    · exact .bare p u
    · exact .ok p u _ _

theorem RefusesPlainly.storeSettings (p : Port) (u : State) : RefusesPlainly p u u.storeSettings := by
  unfold State.storeSettings
  split
  · exact .bare p u
  · exact .ok p u _ _

theorem RefusesPlainly.binState (p : Port) (u : State) (bin requested : Byte) :
    RefusesPlainly p u (u.binState bin requested) := by
  have changed (b : Fin 8) (m : BinMode) : RefusesPlainly p u (u.changeBin b m) := .ok p u _ _
  unfold State.binState
  split
  · split
    · exact .bare p u
    · unfold State.decideBin
      dsimp only
      split
      case h_7 => exact .ok p u u _
      case h_8 | h_9 => split; exacts [changed _ _, .bare p u]
      case h_1 | h_3 | h_5 => exact changed _ _
      all_goals exact .bare p u
  · exact .bare p u

theorem RefusesPlainly.laneUp (p : Port) (u : State) (lane : Byte) : RefusesPlainly p u (u.laneUp lane) := by
  unfold State.laneUp
  split
  · exact .ok p u _ _
  · exact .bare p u

theorem RefusesPlainly.dropped (p : Port) (u : State) (sheet : Word) : RefusesPlainly p u (u.dropped sheet) := by
  unfold State.dropped
  split
  · exact .outOfOrder p u
  · split
    · split
      · exact .ok p u _ _
      · exact .outOfOrder p u
    all_goals exact .outOfOrder p u

theorem RefusesPlainly.divert (p : Port) (u : State) (sheet : Word) : RefusesPlainly p u (u.divert sheet) := by
  have other : RefusesPlainly p u (u.divertOther sheet) := by
    unfold State.divertOther
    split
    · split
      · exact .ok p u _ _
      · exact .outOfOrder p u
    · exact .outOfOrder p u
  unfold State.divert
  split
  · exact other
  · split
    · split
      · exact .ok p u _ _
      · exact other
    all_goals exact other

theorem RefusesPlainly.emptied (p : Port) (u : State) (bin : Byte) : RefusesPlainly p u (u.emptied bin) := by
  unfold State.emptied
  split
  · exact .bare p u
  · split
    · exact .bare p u
    · exact .ok p u _ _

theorem RefusesPlainly.takeOrder (p : Port) (u : State) (number : Word) (cls count : Byte) (plies : List Byte) :
    RefusesPlainly p u (u.takeOrder number cls count plies) := by
  unfold State.takeOrder
  split
  · exact .bare p u
  · split
    · exact .bare p u
    · split
      · exact .bare p u
      · exact .ok p u _ _

theorem RefusesPlainly.cancel (p : Port) (u : State) (number : Word) : RefusesPlainly p u (u.cancel number) := by
  unfold State.cancel
  split
  · exact .ok p u _ _
  · split
    · unfold State.cancelActive
      split
      · exact .bare p u
      all_goals exact .ok p u _ _
    · exact .bare p u

theorem RefusesPlainly.nextPly (p : Port) (u : State) (number : Word) : RefusesPlainly p u (u.nextPly number) := by
  unfold State.nextPly
  split
  · exact .bare p u
  · split
    · exact .bare p u
    all_goals
      unfold State.callNext
      split
      · exact .bare p u
      · split
        · exact .unchanged p u (by simp)
        · split
          · exact .ok p u u _
          · exact .ok p u _ _

theorem RefusesPlainly.taken (p : Port) (u : State) (number : Word) : RefusesPlainly p u (u.taken number) := by
  unfold State.taken
  split
  · exact .bare p u
  · unfold State.takeActive
    split
    · unfold State.takeCalled
      split
      · exact .inl (.inr (.inr rfl))
      all_goals exact .ok p u _ _
    · split
      · exact .unchanged p u (by simp)
      · exact .bare p u

theorem RefusesPlainly.uncall (p : Port) (u : State) (number : Word) : RefusesPlainly p u (u.uncall number) := by
  unfold State.uncall
  split
  · exact .bare p u
  · split
    · exact .bare p u
    · unfold State.uncallActive
      split <;> exact .ok p u _ _

theorem State.orderStatus_code (u : State) (number : Word) : (u.orderStatus number).code ≠ .outOfOrder := by
  unfold State.orderStatus
  split <;> simp [Reply.ok, Reply.bare]

/-- What the claim says of a frame's answer. -/
def AnsweredPlainly (s t : State) (p : Port) (tag : Byte) : Prop :=
  ∀ a : Answer, (t.port p).answer = some a → a.code ≠ .ok → a.code ≠ .clamped → a.code ≠ .late →
    (a.code ≠ .outOfOrder → t = s.replied p tag a.code a.payload) ∧
    (a.code = .outOfOrder → a.payload = [] ∧ t = (s.faultOccurs .outOfOrder).replied p tag .outOfOrder [])

/-- A refusal at the accepted frame is one of the state as it stood. -/
theorem RefusesPlainly.answered {s : State} {p : Port} {x : State × Option Reply} (h : RefusesPlainly p (s.acceptFrame p) x)
    (tag : Byte) : AnsweredPlainly s (State.answered p tag x) p tag := by
  obtain ⟨v, reply⟩ := x
  intro a ha hok hclamped hlate
  cases reply with
  | none =>
    have silent : (v.port p).answer = none := h
    exact absurd (silent.symm.trans ha) (by simp)
  | some r =>
    have answer : a = { tag := tag, code := r.code, payload := r.payload } := by
      have placed : ((v.placeAnswer p tag r).port p).answer = some a := ha
      rw [State.placeAnswer, State.setPort_port, if_pos rfl] at placed
      exact (Option.some.inj placed).symm
    subst answer
    rcases h with taken | ⟨hne, same⟩ | ⟨refused, faulted⟩
    · exact absurd taken (by simp [hok, hclamped, hlate])
    · refine ⟨fun _ => ?_, fun heq => absurd heq hne⟩
      obtain rfl : v = s.acceptFrame p := same
      exact State.acceptFrame_placeAnswer s p tag r
    · subst refused
      refine ⟨fun hne => absurd rfl hne, fun _ => ⟨rfl, ?_⟩⟩
      obtain rfl : v = (s.acceptFrame p).faultOccurs .outOfOrder := faulted
      show ((s.acceptFrame p).faultOccurs .outOfOrder).placeAnswer p tag _ = _
      rw [State.faultOccurs_acceptFrame]
      exact State.acceptFrame_placeAnswer (s.faultOccurs .outOfOrder) p tag (Reply.bare .outOfOrder)

theorem station_refuses {p : Port} {tag : Byte} {right acts : Bool} {body : State → State × Option Reply} {s t : State}
    (hl : s.porstLow = false) (hb : ∀ u : State, (u.port p).answer = none → RefusesPlainly p u (body u))
    (h : station p tag right acts body s = .next t) : AnsweredPlainly s t p tag := by
  rw [station_next hl] at h
  cases h
  have empty : ((s.acceptFrame p).port p).answer = none := by rw [State.acceptFrame, State.setPort_port, if_pos rfl]
  refine RefusesPlainly.answered ?_ tag
  unfold dispatched
  split
  · exact .bare p _
  · split
    · exact .bare p _
    · exact hb _ empty

/-- Settles O23: every command's decision refuses without a change, or with a fault. -/
theorem refusedCommandsChangeNothing : Obligations.RefusedCommandsChangeNothing := by
  intro s t c p tag a hl hc h ha hok hclamped hlate
  refine (?_ : AnsweredPlainly s t p tag) a ha hok hclamped hlate
  unfold exec at h
  cases c
  case fetch =>
    cases hc
    refine station_refuses hl (fun u hu => ?_) h
    exact hu
  case status => cases hc; exact station_refuses hl (fun u _ => .ok p u u _) h
  case readEvents => cases hc; exact station_refuses hl (fun u _ => .ok p u _ _) h
  case setAttnMask => cases hc; exact station_refuses hl (fun u _ => .ok p u _ _) h
  case readBin => cases hc; exact station_refuses hl (fun u _ => .readBin p u _ _) h
  case readSheet => cases hc; exact station_refuses hl (fun u _ => .unchanged p u (u.readSheet_code _ _ _)) h
  case portReset =>
    cases hc
    refine station_refuses hl (fun u _ => ?_) h
    show ((u.portReset p).port p).answer = none
    rw [State.portReset, State.setPort_port, if_pos rfl]
  case start => cases hc; exact station_refuses hl (fun u _ => .start p u) h
  case stop => cases hc; exact station_refuses hl (fun u _ => .ok p u _ _) h
  case setSetting => cases hc; exact station_refuses hl (fun u _ => .setSetting p u _ _) h
  case getSetting => cases hc; exact station_refuses hl (fun u _ => .unchanged p u (u.getSetting_code _)) h
  case loadSettings => cases hc; exact station_refuses hl (fun u _ => .loadSettings p u) h
  case storeSettings => cases hc; exact station_refuses hl (fun u _ => .storeSettings p u) h
  case binState => cases hc; exact station_refuses hl (fun u _ => .binState p u _ _) h
  case laneUp => cases hc; exact station_refuses hl (fun u _ => .laneUp p u _) h
  case readFaults => cases hc; exact station_refuses hl (fun u _ => .ok p u _ _) h
  case readLines => cases hc; exact station_refuses hl (fun u _ => .ok p u _ _) h
  case resetLine => cases hc; exact station_refuses hl (fun u _ => .ok p u _ _) h
  case whereTo => cases hc; exact station_refuses hl (fun u _ => .ok p u _ _) h
  case dropped => cases hc; exact station_refuses hl (fun u _ => .dropped p u _) h
  case divert => cases hc; exact station_refuses hl (fun u _ => .divert p u _) h
  case emptied => cases hc; exact station_refuses hl (fun u _ => .emptied p u _) h
  case order => cases hc; exact station_refuses hl (fun u _ => .takeOrder p u _ _ _ _) h
  case cancel => cases hc; exact station_refuses hl (fun u _ => .cancel p u _) h
  case nextPly => cases hc; exact station_refuses hl (fun u _ => .nextPly p u _) h
  case taken => cases hc; exact station_refuses hl (fun u _ => .taken p u _) h
  case uncall => cases hc; exact station_refuses hl (fun u _ => .uncall p u _) h
  case orderStatus => cases hc; exact station_refuses hl (fun u _ => .unchanged p u (u.orderStatus_code _)) h
  all_goals cases hc

end Sys2Proof.Machine

namespace Sys2Proof.Machine

/-! ## Bytes of an answer (R163) -/

@[simp] theorem byteOf_toNat (n : Nat) : (byteOf n).toNat = n % 256 := BitVec.toNat_ofNat _ _

/-- The flags of a byte, flag 0 in bit 0. -/
theorem flagByte_getLsbD (l : List Bool) {i : Nat} (hi : i < 8) : (flagByte l).getLsbD i = l.getD i false := by
  have bits (l : List Bool) (i : Nat) : (l.foldr (fun (b : Bool) (n : Nat) => b.toNat + 2 * n) 0).testBit i = l.getD i false := by
    induction l generalizing i with
    | nil => simp
    | cons b l ih =>
      rw [List.foldr_cons]
      cases i with
      | zero => cases b <;> simp [Nat.testBit_zero, Nat.add_mod]
      | succ i =>
        rw [Nat.testBit_succ, List.getD_cons_succ, ← ih i]
        congr 1
        cases b
        · simp
        · simp
          omega
  rw [flagByte, byteOf, BitVec.getLsbD_ofNat, bits, decide_eq_true hi, Bool.true_and]

/-- Two bytes are the number that they carry. -/
theorem bytes_toNat (n : Nat) : (byteOf (n / 256) ++ byteOf n).toNat = n % 65536 := by
  rw [BitVec.toNat_append, Nat.shiftLeft_eq, ← Nat.shiftLeft_eq, ← Nat.shiftLeft_add_eq_or_of_lt (byteOf n).isLt,
    Nat.shiftLeft_eq, byteOf_toNat, byteOf_toNat]
  omega

theorem wordBytes_append (w : Word) : w.extractLsb' 8 8 ++ w.extractLsb' 0 8 = w := by
  rw [BitVec.extractLsb'_append_extractLsb'_eq_extractLsb' (by rfl)]
  simp

/-! ## READ_BIN (R96, Tables 4-7, 7-11, 7-13) -/

/-- Four flags over a code of four bits. -/
theorem flagsOverCode_read (l : List Bool) {n : Nat} (hn : n < 16) :
    (∀ k, k < 4 → ((flagByte l <<< 4) ||| byteOf n).getLsbD (4 + k) = l.getD k false) ∧
      ((flagByte l <<< 4) ||| byteOf n).toNat % 16 = n := by
  constructor
  · intro k hk
    have low : (byteOf n).getLsbD (4 + k) = false := by
      rw [byteOf, BitVec.getLsbD_ofNat, Nat.testBit_lt_two_pow, Bool.and_false]
      exact hn.trans_le (Nat.pow_le_pow_right (by omega) (by omega) : 2 ^ 4 ≤ 2 ^ (4 + k))
    rw [BitVec.getLsbD_or, low, BitVec.getLsbD_shiftLeft, Bool.or_false, Nat.add_sub_cancel_left,
      flagByte_getLsbD l (by omega)]
    simp
    omega
  · rw [BitVec.toNat_or, BitVec.toNat_shiftLeft, byteOf_toNat, Nat.mod_eq_of_lt (show n < 256 by omega)]
    have shifted : (flagByte l).toNat <<< 4 % 2 ^ 8 = ((flagByte l).toNat % 16) <<< 4 := by
      simp only [Nat.shiftLeft_eq]
      omega
    rw [shifted, ← Nat.shiftLeft_add_eq_or_of_lt (i := 4) hn, Nat.shiftLeft_eq]
    omega

/-- A sheet record in its fifteen bytes (Table 7-13). -/
theorem SheetRecord.bytes_read (r : SheetRecord) :
    r.bytes.length = 15 ∧ wordAt r.bytes 0 = r.sheet ∧
    (byteAt r.bytes 2).toNat = 16 * (r.asIs.map Grade.code).getD 15 + r.disposition.code ∧
    (∀ k : Fin 4, (byteAt r.bytes 3).getLsbD (4 + k.val) = r.missing.get k) ∧
    (byteAt r.bytes 3).toNat % 16 = (r.placedClass.map BinClass.code).getD 15 ∧
    (wordAt r.bytes 4).toNat = r.mean % 65536 ∧ (wordAt r.bytes 6).toNat = r.wetspot % 65536 ∧
    (wordAt r.bytes 8).toNat = r.worstZone % 65536 ∧ (wordAt r.bytes 10).toNat = r.total % 65536 ∧
    (byteAt r.bytes 12).toNat = r.openCount % 256 ∧
    (r.thickDev < 8192 → (wordAt r.bytes 13).toNat = r.thickDev + if r.degraded then 32768 else 0) := by
  have grade : (r.asIs.map Grade.code).getD 15 ≤ 15 := by
    rcases r.asIs with _ | g
    · exact Nat.le_refl _
    · cases g <;> decide
  have disposition : r.disposition.code < 8 := by
    rcases r.disposition with ⟨g | _ | _ | _⟩ | _
    · cases g <;> decide
    all_goals decide
  have placed : (r.placedClass.map BinClass.code).getD 15 < 16 := by
    rcases r.placedClass with _ | g | _ | _ | _
    · decide
    · cases g <;> decide
    all_goals decide
  have flags := flagsOverCode_read (fourLanes.map r.missing.get) placed
  refine ⟨rfl, wordBytes_append r.sheet, ?_, fun k => ?_, flags.2, bytes_toNat _, bytes_toNat _, bytes_toNat _, bytes_toNat _,
    byteOf_toNat _, fun h => ?_⟩
  · show (byteOf ((r.asIs.map Grade.code).getD noneCode * 16 + r.disposition.code)).toNat = _
    rw [byteOf_toNat, noneCode]
    omega
  · refine (flags.1 k.val k.isLt).trans ?_
    fin_cases k <;> rfl
  · refine (bytes_toNat _).trans ?_
    split <;> omega

/-- The first byte of READ_BIN's answer: the bin, its state, and three flags (Table 4-7). -/
theorem binByte_read (i : Fin 8) {m : Nat} (hm : m < 3) (x y z : Bool) :
    (byteOf (i.val + 8 * m + 32 * x.toNat + 64 * y.toNat + 128 * z.toNat)).toNat % 8 = i.val ∧
    (byteOf (i.val + 8 * m + 32 * x.toNat + 64 * y.toNat + 128 * z.toNat)).toNat / 8 % 4 = m ∧
    (byteOf (i.val + 8 * m + 32 * x.toNat + 64 * y.toNat + 128 * z.toNat)).getLsbD 5 = x ∧
    (byteOf (i.val + 8 * m + 32 * x.toNat + 64 * y.toNat + 128 * z.toNat)).getLsbD 6 = y ∧
    (byteOf (i.val + 8 * m + 32 * x.toNat + 64 * y.toNat + 128 * z.toNat)).getLsbD 7 = z := by
  have hi := i.isLt
  have bit (b : Bool) : b.toNat ≤ 1 := Bool.toNat_le b
  have hx := bit x
  have hy := bit y
  have hz := bit z
  have is (b : Bool) {n : Nat} (h : n = b.toNat) : decide (n = 1) = b := by cases b <;> simp_all
  refine ⟨?_, ?_, ?_, ?_, ?_⟩
  · rw [byteOf_toNat]
    omega
  · rw [byteOf_toNat]
    omega
  all_goals
    rw [byteOf, BitVec.getLsbD_ofNat, Nat.testBit_eq_decide_div_mod_eq]
    exact is _ (by omega)

theorem BinMode.code_lt (m : BinMode) : m.code < 3 := by cases m <;> decide

theorem BinClass.code_lt (k : BinClass) : k.code < 256 := by
  rcases k with g | _ | _ | _
  · cases g <;> decide
  all_goals decide

/-- READ_BIN's answer in its bytes (Table 4-7). -/
theorem Bin.payload_read (b : Bin) (i : Fin 8) (depth : Nat) :
    (b.payload i depth).length = 28 ∧ (byteAt (b.payload i depth) 0).toNat % 8 = i.val ∧
    (byteAt (b.payload i depth) 0).toNat / 8 % 4 = b.mode.code ∧
    (byteAt (b.payload i depth) 0).getLsbD 5 = b.room ∧ (byteAt (b.payload i depth) 0).getLsbD 6 = b.full ∧
    (byteAt (b.payload i depth) 0).getLsbD 7 = (b.stack[depth]?).isSome ∧
    (byteAt (b.payload i depth) 1).toNat = b.cls.code ∧
    (wordAt (b.payload i depth) 2).toNat = b.capacity % 65536 ∧
    (byteAt (b.payload i depth) 4).toNat = b.effMargin % 256 ∧
    (wordAt (b.payload i depth) 5).toNat = b.count % 65536 ∧
    (wordAt (b.payload i depth) 7).toNat = b.inbound % 65536 ∧
    (wordAt (b.payload i depth) 9).toNat = b.reserved % 65536 ∧
    (wordAt (b.payload i depth) 11).toNat = depth % 65536 ∧
    (b.payload i depth).drop 13 = recordBytes b.stack[depth]? := by
  obtain ⟨number, mode, room, full, record⟩ := binByte_read i b.mode.code_lt b.room b.full (b.stack[depth]?).isSome
  refine ⟨?_, number, mode, room, full, record, ?_, bytes_toNat _, byteOf_toNat _, bytes_toNat _, bytes_toNat _,
    bytes_toNat _, bytes_toNat _, rfl⟩
  · show (recordBytes b.stack[depth]?).length + 13 = 28
    rw [recordBytes_length]
  · exact (byteOf_toNat _).trans (Nat.mod_eq_of_lt b.cls.code_lt)

/-- Settles O26: each field stands at its place in the answer. -/
theorem readBinReportsTheRecord : Obligations.ReadBinReportsTheRecord := by
  unfold Obligations.ReadBinReportsTheRecord
  refine ⟨fun r => ?_, fun s p tag bin depth h => ⟨fun hbad => ?_, fun b hb hdepth => ?_⟩⟩
  · obtain ⟨length, sheet, grade, missing, placed, rest⟩ := r.bytes_read
    refine ⟨length, sheet, grade.trans ?_, missing, placed.trans ?_, rest⟩
    · rcases r.asIs with _ | _ <;> rfl
    · rcases r.placedClass with _ | _ <;> rfl
  · refine station_answers h (Reply.bare .badArgument) ?_
    by_cases hbin : bin.toNat < 8
    · simp only [State.readBin, binNumber_val ⟨bin.toNat, hbin⟩, if_neg (show ¬ depth.toNat ≤ 299 by omega), unchanged]
    · simp only [State.readBin, binNumber_none (Nat.not_lt.1 hbin), unchanged]
  · obtain ⟨length, number, mode, room, full, record, cls, capacity, margin, count, inbound, reserved, at_depth, sheet⟩ :=
      (s.bins.get b).payload_read b depth.toNat
    refine ⟨(s.bins.get b).payload b depth.toNat, station_answers h (Reply.ok ((s.bins.get b).payload b depth.toNat)) ?_,
      length, number, mode, ⟨?_, ?_, margin⟩, rfl, ⟨room, full⟩, ?_, cls, capacity, count, inbound, reserved,
      at_depth.trans (Nat.mod_eq_of_lt (by omega)), sheet.trans ?_⟩
    · simp only [State.readBin, hb, binNumber_val, if_pos hdepth, unchanged, State.acceptFrame_bins]
    · rw [room, Bin.room, decide_eq_true_iff, Bin.count]
    · rw [full, Bin.full, decide_eq_true_iff, Bin.count, Bin.effMargin]
    · rw [record, Bin.count]
      simp
    · rcases (s.bins.get b).stack[depth.toNat]? with _ | _ <;> rfl

end Sys2Proof.Machine

namespace Sys2Proof.Machine

/-! ## The status byte (R148, Table 7-4) -/

theorem Bin.room_eq_false_iff (b : Bin) : b.room = false ↔ b.capacity ≤ b.stack.length + b.inbound := by
  rw [Bin.room, decide_eq_false_iff_not, Nat.not_lt, Bin.count]

/-- The line-hold condition over the grades and the bins (R77, R185). -/
theorem State.lineHold_iff (s : State) :
    s.lineHold = true ↔ s.ram.holdThreshold ≤ s.table.length ∨ ∃ g : Grade,
      (∃ i, (s.bins.get i).mode = .opened ∧ (s.bins.get i).cls = .grade g) ∧
      ∀ i, (s.bins.get i).mode = .opened → (s.bins.get i).cls = .grade g →
        (s.bins.get i).capacity ≤ (s.bins.get i).stack.length + (s.bins.get i).inbound := by
  have member (g : Grade) (i : Fin 8) : i ∈ openBins s.bins (.grade g) ↔
      (s.bins.get i).mode = .opened ∧ (s.bins.get i).cls = .grade g := by simp [openBins]
  have shut (g : Grade) : blocked s.bins g = true ↔
      (∃ i, (s.bins.get i).mode = .opened ∧ (s.bins.get i).cls = .grade g) ∧
      ∀ i, (s.bins.get i).mode = .opened → (s.bins.get i).cls = .grade g →
        (s.bins.get i).capacity ≤ (s.bins.get i).stack.length + (s.bins.get i).inbound := by
    rw [blocked, Bool.and_eq_true, Bool.not_eq_true', List.isEmpty_eq_false_iff_exists_mem, List.all_eq_true]
    simp only [member, Bool.not_eq_true', Bin.room_eq_false_iff, and_imp]
  rw [State.lineHold, Bool.or_eq_true, decide_eq_true_iff, List.any_eq_true]
  simp only [shut, mem_grades, true_and]

/-- The attention condition: some event flag is set and enabled (R170). -/
theorem PortState.attention_iff (ps : PortState) :
    ps.attention = true ↔ ∃ n, n < 16 ∧ ps.flags.getLsbD n = true ∧ ps.mask.getLsbD n = true := by
  have zero : ps.flags &&& ps.mask = 0 ↔ ∀ n, n < 16 → (ps.flags &&& ps.mask).getLsbD n = false := by
    constructor
    · intro h n _
      rw [h]
      exact BitVec.getLsbD_zero
    · intro h
      refine BitVec.eq_of_getLsbD_eq fun n hn => ?_
      rw [h n hn]
      exact BitVec.getLsbD_zero.symm
  rw [PortState.attention, decide_eq_true_iff, ne_eq, zero]
  simp only [BitVec.getLsbD_and, not_forall, Bool.not_eq_false, Bool.and_eq_true, exists_prop]

/-- The status byte, bit by bit (Table 7-4). -/
theorem State.statusByte_bits (s : State) (p : Port) :
    (s.statusByte p).getLsbD 0 = (s.port p).answer.isSome ∧ (s.statusByte p).getLsbD 1 = s.settingsBusy ∧
    (s.statusByte p).getLsbD 2 = s.lineHold ∧ (s.statusByte p).getLsbD 3 = anyPending s.faults ∧
    (s.statusByte p).getLsbD 4 = (s.port p).attention ∧ (s.statusByte p).getLsbD 5 = (s.port p).frameErr ∧
    (s.statusByte p).getLsbD 6 = (s.port p).flags.getLsbD 15 ∧
    (s.statusByte p).getLsbD 7 = (!(s.port p).flags.getLsbD 15 && !(s.port p).frameErr &&
      !(s.port p).attention && !anyPending s.faults) := by
  refine ⟨?_, ?_, ?_, ?_, ?_, ?_, ?_, ?_⟩
  all_goals exact flagByte_getLsbD _ (by omega)

/-! ## The bytes of a window (R147, R155) -/

/-- Filled up to a length and cut at it, a list shows 00h wherever it has no byte. -/
theorem padded_take_getD (l : List Byte) (m n : Nat) : ((padded m l).take m).getD n 0 = if n < m then l.getD n 0 else 0 := by
  split
  case isTrue h =>
    rw [List.getD_eq_getElem?_getD, List.getElem?_take_of_lt h, padded, List.getD_eq_getElem?_getD]
    by_cases hl : n < l.length
    · rw [List.getElem?_append_left hl]
    · rw [List.getElem?_append_right (Nat.not_lt.1 hl), List.getElem?_eq_none (Nat.not_lt.1 hl),
        List.getElem?_replicate_of_lt (by omega)]
      rfl
  case isFalse h =>
    rw [List.getD_eq_getElem?_getD, List.getElem?_take_eq_none (Nat.not_lt.1 h)]
    rfl

theorem outputAt_eq (b : Byte) (a : Option Answer) (n : Nat) :
    outputAt b a n = if n < 32 then (b :: (match a with
      | some a => a.tag :: byteOf a.code.code :: a.payload
      | none => [])).getD n 0 else 0 := padded_take_getD _ 32 n

@[simp] theorem outputAt_zero (b : Byte) (a : Option Answer) : outputAt b a 0 = b := outputAt_eq b a 0

/-- With no answer in the buffer the status byte stands alone. -/
theorem outputAt_none (b : Byte) {n : Nat} (h : 1 ≤ n) : outputAt b none n = 0 := by
  obtain ⟨n, rfl⟩ : ∃ k, n = k + 1 := ⟨n - 1, by omega⟩
  rw [outputAt_eq]
  split <;> simp

/-- An answer's payload follows its tag and its code, and 00h follows the payload. -/
theorem outputAt_payload (b : Byte) {a : Answer} (h : a.payload.length ≤ 29) (n : Nat) :
    outputAt b (some a) (3 + n) = a.payload.getD n 0 := by
  rw [outputAt_eq, Nat.add_comm 3 n]
  split
  case isTrue => rfl
  case isFalse far => exact (List.getD_eq_default _ _ (by omega)).symm

theorem ResultCode.code_lt (c : ResultCode) : c.code < 256 := by cases c <;> decide

/-! ## The edges of a clock in an open window (R146) -/

theorem State.takeInput_clockFall_edge {s : State} {p : Port} (hw : (s.port p).window.isOpen = true)
    (h : (s.port p).sck = true) :
    s.takeInput (.clockFall p) = s.setPort p { s.port p with sck := false, sent := (s.port p).sent + 1 } :=
  congrArg (s.setPort p) (PortState.clockFall_edge h hw)

theorem State.takeInput_clockFall_low {s : State} {p : Port} (h : (s.port p).sck = false) :
    s.takeInput (.clockFall p) = s := by
  have same : (s.port p).clockFall = s.port p := by
    rw [PortState.clockFall_none (.inl h), ← h]
  exact (congrArg (s.setPort p) same).trans (s.port_eta p)

/-- Settles O18: the output is the status byte, bit by bit, and the answer after it. -/
theorem selectFallFixesTheOutput : Obligations.SelectFallFixesTheOutput := by
  unfold Obligations.SelectFallFixesTheOutput
  intro s p powered
  refine ⟨fun b answer n open_window => ⟨?_, ?_, State.takeInput_clockFall_low⟩, s.statusByte p, s.beginWindow p, ?_, rfl, ?_, ?_⟩
  · rw [PortState.sdo, open_window]
  · exact State.takeInput_clockFall_edge (by rw [open_window]; rfl)
  · show execSelectFall p s = _
    rw [execSelectFall, powered]
    rfl
  · rw [State.beginWindow, State.setPort_port_self]
    simp only [PortState.sdo, Nat.zero_div, Nat.zero_mod, Nat.sub_zero, outputAt_zero]
  obtain ⟨answer, busy, hold, fault, attention, frameErr, resetSeen, quiet⟩ := s.statusByte_bits p
  refine ⟨answer, ?_, ?_, ?_, ?_, frameErr, resetSeen, ?_, ?_, ?_, ?_, ?_⟩
  · rw [busy, settingsBusy_iff]
  · rw [hold, State.lineHold_iff]
  · rw [fault, anyPending_eq]
  · rw [attention, PortState.attention_iff]
  · rw [quiet, fault, attention, frameErr, resetSeen]
    simp only [Bool.and_eq_true, Bool.not_eq_true']
    tauto
  · exact outputAt_zero _ _
  · intro n far
    rw [outputAt_eq, if_neg (Nat.not_lt.2 far)]
  · exact fun _ n => outputAt_none _
  · intro a _ fits
    refine ⟨outputAt_eq _ _ 1, ?_, outputAt_payload _ fits⟩
    rw [outputAt_eq]
    exact (byteOf_toNat _).trans (Nat.mod_eq_of_lt a.code.code_lt)

end Sys2Proof.Machine

namespace Sys2Proof.Machine

/-! ## The orders, looked up by their numbers (R100, R101, R111) -/

theorem queuePosition_none {q : List Order} {number : Word} :
    queuePosition q number = none ↔ ∀ o ∈ q, o.number ≠ number := by
  induction q with
  | nil => simp [queuePosition]
  | cons o q ih =>
    rw [queuePosition, List.forall_mem_cons, ← ih]
    split <;> simp [*]

/-- A waiting order stands behind those ahead of it. -/
theorem queuePosition_split {before after : List Order} {o : Order} (h : ∀ x ∈ before, x.number ≠ o.number) :
    queuePosition (before ++ o :: after) o.number = some (before.length + 1) := by
  induction before with
  | nil => simp [queuePosition]
  | cons x before ih =>
    rw [List.forall_mem_cons] at h
    simp [queuePosition, h.1, ih h.2]

theorem State.findActive_none {s : State} {number : Word} :
    s.findActive number = none ↔ ∀ a ∈ s.active, a.number ≠ number := by
  simp [State.findActive]

theorem State.findActive_mem {s : State} (h : OrderInv s) {a : Active} (ha : a ∈ s.active) :
    s.findActive a.number = some a := by
  obtain ⟨before, after, hs⟩ := List.append_of_mem ha
  exact State.findActive_split h hs

theorem State.findSlot_mem {s : State} (h : OrderInv s) {a : Active} (ha : a ∈ s.active) :
    s.findSlot a.slot = some a := by
  obtain ⟨before, after, hs⟩ := List.append_of_mem ha
  exact State.findSlot_split h hs

/-- A number that an active order carries is no waiting order's. -/
theorem OrderInv.notWaiting {s : State} (h : OrderInv s) {a : Active} (ha : a ∈ s.active) :
    ∀ o ∈ s.queue, o.number ≠ a.number := by
  obtain ⟨before, after, hs⟩ := List.append_of_mem ha
  exact (h.others hs).2.2

/-- No other order carries a waiting order's number (R100). -/
theorem OrderInv.waiting_others {s : State} (h : OrderInv s) {before after : List Order} {o : Order}
    (hq : s.queue = before ++ o :: after) :
    (∀ x ∈ before ++ after, x.number ≠ o.number) ∧ ∀ a ∈ s.active, a.number ≠ o.number := by
  have numbers := ((orderInv_iff s).1 h).1.numbers
  rw [hq, List.map_append, List.map_cons, List.append_assoc, List.cons_append, List.nodup_middle,
    List.nodup_cons, ← List.append_assoc, ← List.map_append] at numbers
  have other := fun h' => numbers.1 (List.mem_append.2 h')
  exact ⟨fun x hx hn => other (.inl (List.mem_map.2 ⟨x, hx, hn⟩)), fun a ha hn => other (.inr (List.mem_map.2 ⟨a, ha, hn⟩))⟩

theorem OrderInv.queuePosition_eq {s : State} (h : OrderInv s) {before after : List Order} {o : Order}
    (hq : s.queue = before ++ o :: after) : queuePosition s.queue o.number = some (before.length + 1) := by
  rw [hq]
  exact queuePosition_split fun x hx => (h.waiting_others hq).1 x (by simp [hx])

theorem State.numberInUse_iff (s : State) (number : Word) :
    s.numberInUse number = true ↔ (∃ o ∈ s.queue, o.number = number) ∨ ∃ a ∈ s.active, a.number = number := by
  simp [State.numberInUse]

/-! ## The recipe of an ORDER (R99, R100, R162) -/

theorem Grade.ofCode_isSome (n : Nat) : (Grade.ofCode n).isSome = true ↔ n < 4 := by
  rcases n with _ | _ | _ | _ | n <;> simp [Grade.ofCode]

theorem OrderClass.ofCode_isSome (n : Nat) : (OrderClass.ofCode n).isSome = true ↔ n < 2 := by
  rcases n with _ | _ | n <;> simp [OrderClass.ofCode]

theorem plyOf_isSome (b : Byte) : (plyOf b).isSome = true ↔ b.toNat % 16 < 4 ∧ b.toNat / 16 < 2 := by
  rw [← Grade.ofCode_isSome, plyOf]
  generalize b.toNat / 16 = n
  cases Grade.ofCode (b.toNat % 16) with
  | none => simp
  | some g => rcases n with _ | _ | n <;> simp

theorem pliesOf_isSome (l : List Byte) :
    (pliesOf l).isSome = true ↔ ∀ b ∈ l, b.toNat % 16 < 4 ∧ b.toNat / 16 < 2 := by
  induction l with
  | nil => simp [pliesOf]
  | cons b l ih =>
    rw [List.forall_mem_cons, ← ih, ← plyOf_isSome, pliesOf]
    cases plyOf b <;> cases pliesOf l <;> simp

/-- The valid recipes (R99; log 12). -/
theorem recipeOf_isSome (number : Word) (cls count : Byte) (plies : List Byte) :
    (recipeOf number cls count plies).isSome = true ↔
      recipeSize count.toNat ∧ plies.length = count.toNat ∧ cls.toNat < 2 ∧
        ∀ b ∈ plies, b.toNat % 16 < 4 ∧ b.toNat / 16 < 2 := by
  rw [← pliesOf_isSome, ← OrderClass.ofCode_isSome, recipeOf]
  split
  next h =>
    obtain ⟨odd, three, fifteen, length⟩ := h
    rw [and_iff_right ⟨odd, three, fifteen⟩, and_iff_right length]
    cases OrderClass.ofCode cls.toNat <;> cases pliesOf plies <;> simp
  next h => simp only [Option.isSome_none, Bool.false_eq_true, false_iff]; tauto

/-! ## The refusals of the P port -/

/-- The three refusals of ORDER (R100). -/
theorem State.takeOrder_refuses (s : State) (number : Word) (cls count : Byte) (plies : List Byte) :
    (recipeOf number cls count plies = none →
      s.takeOrder number cls count plies = unchanged s (Reply.bare .badArgument)) ∧
    ((recipeOf number cls count plies).isSome = true → s.numberInUse number = true →
      s.takeOrder number cls count plies = unchanged s (Reply.bare .duplicate)) ∧
    ((recipeOf number cls count plies).isSome = true → s.numberInUse number = false → 8 ≤ s.queue.length →
      s.takeOrder number cls count plies = unchanged s (Reply.bare .queueFull)) := by
  unfold State.takeOrder
  cases recipeOf number cls count plies with
  | none => simp
  | some o => exact ⟨nofun, fun _ hused => if_pos hused, fun _ hfree hfull => by simp [hfree, Config.queueSize, hfull]⟩

/-- Settles O49: each command by the branches of its decision. -/
theorem pressCommandsAreRefused : Obligations.PressCommandsAreRefused := by
  intro s tag number h ho answers
  have inv : OrderInv (s.acceptFrame .press) := ho
  refine ⟨fun cls count plies => ?_, fun hnone => ?_, fun a ha hn => ?_⟩
  · intro c valid
    have is_valid : _ ↔ valid := recipeOf_isSome number cls count plies
    obtain ⟨bad, duplicate, full⟩ := (s.acceptFrame .press).takeOrder_refuses number cls count plies
    refine ⟨fun hv => station_answers h (Reply.bare .badArgument) (bad ?_), fun hv hused =>
      station_answers h (Reply.bare .duplicate) (duplicate (is_valid.2 hv) ((State.numberInUse_iff _ _).2 hused)),
      fun hv hq ha hlen => station_answers h (Reply.bare .queueFull) (full (is_valid.2 hv) ?_ hlen.ge)⟩
    · rwa [← is_valid, Option.not_isSome_iff_eq_none] at hv
    · rw [← Bool.not_eq_true, State.numberInUse_iff]
      rintro (⟨o, ho, rfl⟩ | ⟨a, ha', rfl⟩)
      exacts [hq o ho rfl, ha a ha' rfl]
  · have missing : (s.acceptFrame .press).findActive number = none := State.findActive_none.2 hnone
    refine ⟨station_answers h (Reply.bare .noSuchOrder) ?_, station_answers h (Reply.bare .noSuchOrder) ?_,
      station_answers h (Reply.bare .noSuchOrder) ?_, fun hq => station_answers h (Reply.bare .noSuchOrder) ?_⟩
    · rw [State.nextPly, missing]; rfl
    · rw [State.taken, missing]; rfl
    · rw [State.uncall, missing]; rfl
    · rw [State.cancel, State.acceptFrame_queue, queuePosition_none.2 hq, missing]; rfl
  · subst hn
    have found : (s.acceptFrame .press).findActive a.number = some a := State.findActive_mem inv ha
    have not_waiting : queuePosition (s.acceptFrame .press).queue a.number = none :=
      queuePosition_none.2 (ho.notWaiting ha)
    refine ⟨fun ⟨c, hc⟩ => ⟨station_answers h (Reply.bare .refused) ?_, station_answers h (Reply.bare .refused) ?_⟩,
      fun hcalled => ⟨station_answers h (Reply.bare .notCalled) ?_,
        fun hw => station_answers h (Reply.bare .notCalled) ?_,
        fun n hw => station_answers h ⟨.withdrawn, [byteOf n]⟩ ?_⟩⟩
    · simp only [State.cancel, not_waiting, found, State.cancelActive, hc, unchanged]
    · simp only [State.nextPly, found, hc, unchanged]
    · simp only [State.uncall, found, hcalled, unchanged]
    · simp only [State.taken, found, State.takeActive, hcalled, hw, unchanged]
    · simp only [State.taken, found, State.takeActive, hcalled, hw, unchanged]

end Sys2Proof.Machine

namespace Sys2Proof.Machine

/-! ## ORDER_STATUS (R114, R115, Tables 5-9, 7-11) -/

theorem padded_getD (m : Nat) (l : List Byte) (n : Nat) : (padded m l).getD n 0 = l.getD n 0 := by
  rw [padded]
  rcases lt_or_ge n l.length with h | h
  · exact List.getD_append _ _ _ _ h
  · rw [List.getD_append_right _ _ _ _ h, List.getD_eq_default _ _ h, List.getD_eq_getElem?_getD,
      List.getElem?_getD_replicate_default_eq]

theorem Grade.code_lt (g : Grade) : g.code < 4 := by cases g <;> decide

theorem OrderClass.code_lt (c : OrderClass) : c.code < 2 := by cases c <;> decide

theorem ActiveState.code_lt (x : ActiveState) : x.code < 5 := by cases x <;> simp [ActiveState.code]

/-- The byte of a ply: two flags over the grade and the planned bin (Table 7-11; log 22). -/
theorem ActivePly.byte_read (p : ActivePly) :
    p.byte.getLsbD 7 = p.taken ∧ p.byte.getLsbD 6 = p.ply.substitute ∧ p.byte.toNat / 16 % 4 = p.ply.grade.code ∧
      p.byte.toNat % 16 = (p.bin.map Fin.val).getD 15 := by
  have grade := p.ply.grade.code_lt
  have taken := p.taken.toNat_le
  have substitute := p.ply.substitute.toNat_le
  have bin : (p.bin.map Fin.val).getD 15 < 16 := by
    cases p.bin with
    | none => decide
    | some b => exact b.isLt.trans (by decide)
  have is (b : Bool) {n : Nat} (h : n = b.toNat) : decide (n = 1) = b := by subst h; cases b <;> rfl
  unfold ActivePly.byte noneCode
  refine ⟨?_, ?_, ?_, ?_⟩
  · rw [byteOf, BitVec.getLsbD_ofNat, Nat.testBit_eq_decide_div_mod_eq]
    exact is _ (by omega)
  · rw [byteOf, BitVec.getLsbD_ofNat, Nat.testBit_eq_decide_div_mod_eq]
    exact is _ (by omega)
  all_goals
    rw [byteOf_toNat]
    omega

/-- The record of an active order in its bytes (Tables 5-9, 7-11). -/
theorem Active.payload_read {a : Active} (h : a.fits) :
    a.payload.length = 28 ∧ wordAt a.payload 0 = a.number ∧ (byteAt a.payload 2).toNat = a.state.code ∧
    (byteAt a.payload 3).toNat = a.slot.val ∧ wordAt a.payload 4 = a.seq ∧
    (byteAt a.payload 6).toNat = a.cls.code ∧ (byteAt a.payload 7).toNat = a.plies.length ∧
    (byteAt a.payload 8).toNat = a.takenCount ∧ (byteAt a.payload 9).toNat = a.called.getD 0 ∧
    (wordAt a.payload 10).toNat = a.holdSeconds % 65536 ∧
    (byteAt a.payload 12).toNat = (a.cause.map AbortCause.code).getD 255 ∧
    ∀ i, byteAt a.payload (13 + i) = (a.plies.map ActivePly.byte).getD i 0 := by
  obtain ⟨done, p, left, drawn⟩ := (Active.fits_iff a).1 h
  have size : a.plies.length ≤ 15 := h.1.2.2
  have taken : a.takenCount ≤ a.plies.length := List.length_filter_le _ _
  have called : a.called.getD 0 < 256 := by
    cases hc : a.called with
    | none => decide
    | some n =>
      have := (drawn.called n hc).1
      rw [drawn.plies] at size
      simp at size ⊢
      omega
  have cause : (a.cause.map AbortCause.code).getD 255 < 256 := by
    rcases a.cause with _ | _ | _ <;> decide
  have reads {n : Nat} (hn : n < 256) : (byteOf n).toNat = n := (byteOf_toNat n).trans (Nat.mod_eq_of_lt hn)
  refine ⟨?_, wordBytes_append _, reads (a.state.code_lt.trans (by decide)), reads (a.slot.isLt.trans (by decide)),
    wordBytes_append _, reads (a.cls.code_lt.trans (by decide)), reads (by omega), reads (by omega), reads called,
    bytes_toNat _, reads cause, fun i => ?_⟩
  · simp [Active.payload, padded_length, size]
  · rw [byteAt, Active.payload, List.getD_append_right _ _ _ _ (Nat.le_add_right 13 i)]
    exact (congrArg (List.getD _ · 0) (Nat.add_sub_cancel_left 13 i)).trans (padded_getD 15 _ i)

theorem find?_reverse_newest {older newer : List Finished} {x : Finished} {number : Word} (hx : x.number = number)
    (h : ∀ y ∈ newer, y.number ≠ number) :
    (older ++ x :: newer).reverse.find? (fun f => f.number = number) = some x := by
  rw [List.reverse_append, List.reverse_cons, List.append_assoc, List.find?_append, List.find?_eq_none.2 (by simpa using h)]
  simp [hx]

theorem find?_number_none {q : List Order} {number : Word} (h : ∀ o ∈ q, o.number ≠ number) :
    q.find? (fun o => o.number = number) = none := List.find?_eq_none.2 (by simpa using h)

theorem OrderInv.find?_waiting {s : State} (h : OrderInv s) {before after : List Order} {o : Order}
    (hq : s.queue = before ++ o :: after) : s.queue.find? (fun x => x.number = o.number) = some o := by
  rw [hq, List.find?_append, find?_number_none fun x hx => (h.waiting_others hq).1 x (by simp [hx])]
  simp

/-- Settles O50: the queue, the slots and the finished list, looked in in this order. -/
theorem orderStatusReportsTheOrder : Obligations.OrderStatusReportsTheOrder := by
  intro s tag number h ho answers
  have status {r : Reply} (hr : s.orderStatus number = r) : answers r.code r.payload :=
    station_answers h r (congrArg (unchanged _) hr)
  refine ⟨fun before after o hq hn => ?_, fun a ha hn => ?_, fun hq ha => ⟨fun older newer x hs hn hnewer => ?_, fun hnone => ?_⟩⟩
  · subst hn
    refine status (r := Reply.ok _) ?_
    simp only [State.orderStatus, ho.find?_waiting hq, ho.queuePosition_eq hq]
    rfl
  · subst hn
    obtain ⟨length, number, state, slot, seq, cls, size, taken, called, hold, cause, plies⟩ :=
      Active.payload_read (((orderInv_iff s).1 ho).1.fits a ha)
    refine ⟨a.payload, status (r := Reply.ok a.payload) ?_, length, number, state, slot, seq, cls, size, taken, called.trans ?_,
      hold.trans ?_, cause.trans ?_, fun i _ => ?_⟩
    · simp only [State.orderStatus, find?_number_none (ho.notWaiting ha), State.findActive_mem ho ha]
    · cases a.called <;> rfl
    · rw [Active.holdSeconds]
      cases a.hold <;> rfl
    · rw [Active.cause]
      cases a.state <;> rfl
    · rw [plies, List.getD_eq_getElem?_getD, List.getElem?_map]
      cases a.plies[i]? with
      | none => rfl
      | some q =>
        obtain ⟨flag, substitute, grade, bin⟩ := q.byte_read
        refine ⟨flag, substitute, grade, bin.trans ?_⟩
        cases q.bin <;> rfl
  · refine status (r := Reply.ok _) ?_
    simp only [State.orderStatus, find?_number_none hq, State.findActive_none.2 ha, hs, find?_reverse_newest hn hnewer]
    rfl
  · refine status (r := Reply.bare .notFound) ?_
    have finished : s.finished.reverse.find? (fun f => f.number = number) = none := List.find?_eq_none.2 (by simpa using hnone)
    simp only [State.orderStatus, find?_number_none hq, State.findActive_none.2 ha, finished]

end Sys2Proof.Machine

namespace Sys2Proof.Machine

/-! ## Aborts (R102, R128 to R132, R135) -/

/-- A release request, bin by bin (R92). -/
theorem releaseAll_eq (bins : Oct Bin) (bs : List (Fin 8)) :
    releaseAll bins bs = Oct.of fun i => { bins.get i with reserved := (bins.get i).reserved - bs.count i } :=
  Oct.ext_get fun i => by rw [releaseAll_get, Oct.get_of]

theorem State.afterRelease_acceptFrame (s : State) (p : Port) (released : List (Fin 8)) :
    (s.acceptFrame p).afterRelease released = (s.afterRelease released).acceptFrame p := by
  rw [State.afterRelease_eq, State.afterRelease_eq, State.admissions_acceptFrame, State.growth_acceptFrame]
  split <;> rfl

theorem State.abort_acceptFrame (s : State) (p : Port) (a : Active) (cause : AbortCause) :
    (s.acceptFrame p).abort a cause = (s.abort a cause).acceptFrame p := by
  unfold State.abort
  dsimp only
  split
  · rw [← State.afterRelease_acceptFrame]
    exact congrArg (State.afterRelease · _) (State.leaveSlot_acceptFrame { s with bins := _ } p a _)
  · rw [← State.afterRelease_acceptFrame]
    rfl

/-- An entry joins the finished list, and no order leaves its slot (R112). -/
theorem State.reportFinish_finishOrder (s : State) (number : Word) (x : Finish) :
    s.reportFinish number x = s.finishOrder s.active number x := by
  rw [State.reportFinish, pushFinished, State.finishOrder, List.length_append]
  rfl

theorem State.cancelWaiting_acceptFrame (s : State) (p : Port) (number : Word) (position : Nat) :
    (s.acceptFrame p).cancelWaiting number position = (s.cancelWaiting number position).acceptFrame p := by
  have reported (t : State) : (t.acceptFrame p).reportFinish number (.aborted .cancelled) =
      (t.reportFinish number (.aborted .cancelled)).acceptFrame p :=
    State.raise_acceptFrame { t with finished := _ } p .finished
  unfold State.cancelWaiting
  dsimp only
  rw [show ({ s.acceptFrame p with queue := (s.acceptFrame p).queue.filter fun o => o.number ≠ number } : State) =
    State.acceptFrame { s with queue := s.queue.filter fun o => o.number ≠ number } p from rfl, reported,
    State.admissions_acceptFrame]
  split <;> rfl

/-- The cancelled order leaves the queue, and the head is tried where it was the head (R102). -/
theorem State.cancelWaiting_split {s : State} (h : OrderInv s) {before after : List Order} {o : Order}
    (hq : s.queue = before ++ o :: after) :
    s.cancelWaiting o.number (before.length + 1) =
      let u := { s with queue := before ++ after }.finishOrder s.active o.number (.aborted .cancelled)
      if before = [] then u.admissions else u := by
  have others := (h.waiting_others hq).1
  have remaining : (s.queue.filter fun x => x.number ≠ o.number) = before ++ after := by
    rw [hq, List.filter_append, List.filter_cons_of_neg (by simp), ← List.filter_append, List.filter_eq_self]
    simpa using others
  unfold State.cancelWaiting
  rw [remaining, State.reportFinish_finishOrder]
  simp only [Nat.add_eq_right, List.length_eq_zero_iff]

theorem map_numbered {α : Type} (f : Nat × ActivePly → α) (n : Nat) (l : List ActivePly) :
    (numbered n l).map f = l.mapIdx fun i p => f (n + i, p) := by
  induction l generalizing n with
  | nil => rfl
  | cons p l ih =>
    rw [numbered, List.map_cons, List.mapIdx_cons, ih]
    simp only [Nat.add_zero, Nat.add_assoc, Nat.add_comm 1]

/-- The untaken plies but the called one lose their plan (R130; log 22). -/
theorem Active.unplan_eq (a : Active) (n : Nat) :
    a.unplan (some n) = a.plies.mapIdx fun i p => if p.taken ∨ i + 1 = n then p else { p with bin := none } := by
  rw [Active.unplan, map_numbered]
  simp only [Bool.or_eq_true, decide_eq_true_eq, Option.some.injEq, Nat.add_comm 1, eq_comm (a := n)]

/-- The abort of an order with no ply called (R129). -/
theorem State.abort_uncalled {s : State} (h : OrderInv s) {before after : List Active} {a : Active}
    (hs : s.active = before ++ a :: after) (hc : a.called = none) (cause : AbortCause) :
    s.abort a cause = ({ s with bins := releaseAll s.bins (a.heldBins none) }.finishOrder (before ++ after) a.number
      (.aborted cause)).afterRelease (a.heldBins none) := by
  unfold State.abort
  rw [hc]
  dsimp only
  rw [State.leaveSlot_finishOrder]
  exact congrArg (fun l => (State.finishOrder _ l a.number _).afterRelease _) (State.freeSlot_split h hs)

/-- The abort of an order with a ply called (R130). -/
theorem State.abort_called {s : State} (h : OrderInv s) {before after : List Active} {a : Active}
    (hs : s.active = before ++ a :: after) {n : Nat} (hc : a.called = some n) (cause : AbortCause) :
    s.abort a cause = State.afterRelease { s with
      bins := releaseAll s.bins (a.heldBins (some n))
      active := before ++ { a with
        plies := a.unplan (some n), state := .closing cause, withdrawn := none, hold := none } :: after }
      (a.heldBins (some n)) := by
  have active := State.setActive_split (a' := { a with
    plies := a.unplan (some n), state := .closing cause, withdrawn := none, hold := none }) h hs rfl
  unfold State.abort
  dsimp only
  split
  next h => exact absurd (hc.symm.trans h) (by simp)
  next m hm =>
    cases hc.symm.trans hm
    rw [← active, hc]
    rfl

/-- A slot with no timer that has run out has no expiry (R128, R142). -/
theorem exec_holdTimerExpiry_early {s : State} (hp : s.porstLow = false) {k : Fin 2}
    (h : ∀ a ∈ s.active, a.slot = k → a.hold ≠ some 0) : exec (.holdTimerExpiry k) s = .next s := by
  show execHoldTimerExpiry k s = _
  rw [execHoldTimerExpiry, powered_next hp]
  cases ha : s.findSlot k with
  | none => rfl
  | some a =>
    have early : a.holdOver = false :=
      decide_eq_false (h a (List.mem_of_find?_eq_some ha) (by simpa using List.find?_some ha))
    dsimp only
    rw [early]
    split <;> rfl

/-- The expiry of a timer that has run out (R128). -/
theorem exec_holdTimerExpiry_over {s : State} (hp : s.porstLow = false) (h : OrderInv s) {a : Active} (ha : a ∈ s.active)
    (hopen : ∀ c, a.state ≠ .closing c) (ht : a.hold = some 0) :
    exec (.holdTimerExpiry a.slot) s = .next (s.abort a .timedOut) := by
  show execHoldTimerExpiry a.slot s = _
  rw [execHoldTimerExpiry, powered_next hp, State.findSlot_mem h ha]
  dsimp only
  rw [Active.holdOver, ht]
  split
  next c hc => exact absurd hc (hopen c)
  all_goals rfl

/-- CANCEL of an active order that is not CLOSING (R131). -/
theorem exec_cancel_active {s : State} (h : NoReset s) (ho : OrderInv s) {a : Active} (ha : a ∈ s.active)
    (hopen : ∀ c, a.state ≠ .closing c) (tag : Byte) :
    exec (.cancel .press tag a.number) s = .next ((s.abort a .cancelled).replied .press tag .ok
      [byteOf a.state.code, if a.called = none then 0x05 else 0x04]) := by
  refine station_acts h (Reply.ok [byteOf a.state.code, if a.called = none then 0x05 else 0x04]) ?_
  have found : (s.acceptFrame .press).findActive a.number = some a := State.findActive_mem (s := s.acceptFrame .press) ho ha
  rw [State.cancel, State.acceptFrame_queue, queuePosition_none.2 (ho.notWaiting ha), found]
  dsimp only
  rw [State.cancelActive, State.abort_acceptFrame]
  have code : byteOf (if a.called.isSome then closingCode else finishedCode) = if a.called = none then 0x05 else 0x04 := by
    cases a.called <;> rfl
  split
  next c hc => exact absurd hc (hopen c)
  all_goals rw [code]

/-- Settles O46: CANCEL in the queue, the timer, and the two ends of an abort. -/
theorem abortFinishesOrClosesAnOrder : Obligations.AbortFinishesOrClosesAnOrder := by
  intro s hp ho
  refine ⟨fun tag before after o hl hq => ?_, fun k => exec_holdTimerExpiry_early hp, fun before after a cause hs hopen => ?_⟩
  · refine station_acts (t := if before = [] then _ else _) ⟨hp, hl⟩ (Reply.ok [0x00, 0x05]) ?_
    rw [State.cancel, State.acceptFrame_queue, ho.queuePosition_eq hq]
    dsimp only
    rw [State.cancelWaiting_acceptFrame, State.cancelWaiting_split ho hq]
    rfl
  · intro released freed u v
    have ha : a ∈ s.active := by simp [hs]
    have aborted : s.abort a cause = v := by
      have growing : v = u.afterRelease released := (State.afterRelease_eq u released).symm
      rw [growing]
      cases hc : a.called with
      | none => simp only [u, freed, released, hc, State.abort_uncalled ho hs hc, releaseAll_eq]
      | some n => simp only [u, freed, released, hc, State.abort_called ho hs hc, releaseAll_eq, Active.unplan_eq]
    refine ⟨?_, ?_⟩
    · rintro rfl ht
      rw [exec_holdTimerExpiry_over hp ho ha hopen ht, aborted]
    · rintro rfl hl tag
      rw [exec_cancel_active ⟨hp, hl⟩ ho ha hopen, aborted]
      rfl

end Sys2Proof.Machine

namespace Sys2Proof.Machine

/-! ## The head of the queue, tried (R104 to R106, R110) -/

theorem State.lowestFree_eq {s : State} {k : Fin 2} (hk : ∀ a ∈ s.active, a.slot ≠ k)
    (hlow : k = 0 ∨ ∃ a ∈ s.active, a.slot = 0) : s.lowestFree = some k := by
  have free : (s.active.any fun a => a.slot = k) = false := by simpa using hk
  rw [State.lowestFree]
  match k, free with
  | 0, free => exact List.find?_cons_of_pos (by rw [free]; rfl)
  | 1, free =>
    have taken : (s.active.any fun a => a.slot = 0) = true := by simpa using hlow
    rw [List.find?_cons_of_neg (by rw [taken]; simp)]
    exact List.find?_cons_of_pos (by rw [free]; rfl)

/-- Two orders leave no slot free (R109). -/
theorem State.lowestFree_none {s : State} (hs : s.active.Pairwise fun x y => x.slot ≠ y.slot) (h : s.active.length = 2) :
    s.lowestFree = none := by
  obtain ⟨x, y, hxy⟩ := List.length_eq_two.1 h
  have differ : x.slot ≠ y.slot := by simpa [hxy] using hs
  rw [State.lowestFree, List.find?_eq_none, hxy]
  intro k _
  simp only [List.any_cons, List.any_nil, Bool.or_false, Bool.not_eq_true', Bool.not_eq_false, Bool.or_eq_true,
    decide_eq_true_eq]
  omega

theorem State.admitHead_none {s : State} (hs : s.active.Pairwise fun x y => x.slot ≠ y.slot) (h : NoAdmission s) :
    s.admitHead = none := by
  unfold State.admitHead
  split
  next k o rest hk hq =>
    rcases h with full | unplanned
    · exact absurd (hk.symm.trans (State.lowestFree_none hs full)) (by simp)
    · rw [unplanned o rest hq]; rfl
  next => rfl

theorem State.admitHead_plan {s : State} {o : Order} {rest : List Order} {k : Fin 2} {bs : List (Fin 8)}
    (hq : s.queue = o :: rest) (hk : s.lowestFree = some k)
    (hp : planPlies s.bins (availableNow s.bins) o.plies = some bs) :
    s.admitHead = some ({ s with
      queue := rest
      active := s.active ++ [admittedRecord s k o bs]
      bins := reserveAll s.bins bs
      admissionSeq := s.admissionSeq + 1 }.raise .admitted) := by
  rw [State.admitHead, hk, hq]
  dsimp only
  rw [hp]
  rfl

theorem State.admitHead_empty {s : State} (h : s.queue = []) : s.admitHead = none := by
  unfold State.admitHead
  rw [h]
  split
  next hq => cases hq
  next => rfl

/-- Of two tries in one moment the second follows an admission (R106). -/
theorem State.admissions_eq (s : State) : s.admissions = s.admitHead.elim s fun t => t.admitHead.getD t := by
  rw [State.admissions, State.admitUpTo]
  cases s.admitHead with
  | none => rfl
  | some t =>
    dsimp only [Option.elim_some]
    rw [State.admitUpTo]
    cases t.admitHead <;> rfl

end Sys2Proof.Machine

namespace Sys2Proof.Machine

/-! ## ORDER (R99 to R101, R105, R106) -/

theorem plyOf_byte (p : Ply) : plyOf (BitVec.ofNat 8 (p.grade.code + if p.substitute then 16 else 0)) = some p := by
  rcases p with ⟨_ | _ | _ | _, _ | _⟩ <;> rfl

theorem pliesOf_bytes (ps : List Ply) :
    pliesOf (ps.map fun p => BitVec.ofNat 8 (p.grade.code + if p.substitute then 16 else 0)) = some ps := by
  induction ps with
  | nil => rfl
  | cons p ps ih => rw [List.map_cons, pliesOf, plyOf_byte, ih]

theorem OrderClass.ofCode_code (c : OrderClass) : OrderClass.ofCode c.code = some c := by cases c <;> rfl

/-- The recipe of an order, read from its bytes (Table 7-9). -/
theorem recipeOf_bytes {cls count : Byte} {o : Order} (hsize : recipeSize o.plies.length)
    (hcount : count.toNat = o.plies.length) (hcls : cls.toNat = o.cls.code) :
    recipeOf o.number cls count
      (o.plies.map fun p => BitVec.ofNat 8 (p.grade.code + if p.substitute then 16 else 0)) = some o := by
  obtain ⟨odd, three, fifteen⟩ := hsize
  rw [recipeOf, hcount, hcls, if_pos ⟨odd, three, fifteen, List.length_map _⟩, OrderClass.ofCode_code, pliesOf_bytes]

/-- Behind the REMAKE orders of a queue stand its NORMAL ones (R101). -/
theorem drop_remakes {q : List Order} (h : q.Pairwise fun x y => y.cls = .remake → x.cls = .remake) :
    q.drop (q.filter fun x => x.cls = .remake).length = q.filter fun x => x.cls = .normal := by
  induction q with
  | nil => rfl
  | cons x q ih =>
    obtain ⟨behind, rest⟩ := List.pairwise_cons.1 h
    cases hx : x.cls with
    | remake =>
      rw [List.filter_cons_of_pos (by simp [hx]), List.filter_cons_of_neg (by simp [hx]), List.length_cons,
        List.drop_succ_cons, ih rest]
    | normal =>
      have normal : ∀ y ∈ x :: q, y.cls = .normal := by
        intro y hy
        rcases List.mem_cons.1 hy with rfl | hy
        · exact hx
        · cases hc : y.cls with
          | normal => rfl
          | remake => exact absurd (behind y hy hc) (by simp [hx])
      rw [List.filter_eq_nil_iff.2 fun y hy => by simp [normal y hy],
        List.filter_eq_self.2 fun y hy => by simp [normal y hy]]
      rfl

theorem joinQueue_remake {q : List Order} (h : q.Pairwise fun x y => y.cls = .remake → x.cls = .remake) {o : Order}
    (hc : o.cls = .remake) :
    joinQueue q o = q.filter (fun x => x.cls = .remake) ++ o :: q.drop (q.filter fun x => x.cls = .remake).length := by
  rw [joinQueue, hc, drop_remakes h]

theorem joinQueue_normal (q : List Order) {o : Order} (hc : o.cls = .normal) : joinQueue q o = q ++ [o] := by
  rw [joinQueue, hc]

/-- The state in which an order has joined the queue (R101). -/
def State.joined (s : State) (o : Order) : State := { s with queue := joinQueue s.queue o }

/-- A valid ORDER joins the queue, and the head is tried (R100). -/
theorem State.takeOrder_joins {s : State} {cls count : Byte} {plies : List Byte} {o : Order}
    (hr : recipeOf o.number cls count plies = some o) (hq : ∀ x ∈ s.queue, x.number ≠ o.number)
    (ha : ∀ x ∈ s.active, x.number ≠ o.number) (hroom : s.queue.length < 8) :
    s.takeOrder o.number cls count plies =
      ((s.joined o).admissions, some (Reply.ok ((s.joined o).admissions.orderPayload o.number))) := by
  have free : ¬ s.numberInUse o.number = true := by
    rw [State.numberInUse_iff]
    rintro (⟨x, hx, hn⟩ | ⟨x, hx, hn⟩)
    exacts [hq x hx hn, ha x hx hn]
  rw [State.takeOrder, hr]
  dsimp only
  rw [if_neg free, if_neg (show ¬ Config.queueSize ≤ s.queue.length from Nat.not_le.2 hroom)]
  rfl

/-- The answer to an ORDER that stands in its slot. -/
theorem State.orderPayload_active {t : State} (h : OrderInv t) {a : Active} (ha : a ∈ t.active) :
    t.orderPayload a.number = wordBytes a.number ++ [0x01, BitVec.ofNat 8 a.slot.val] := by
  rw [State.orderPayload, State.findActive_mem h ha]
  rfl

/-- The answer to an ORDER that waits. -/
theorem State.orderPayload_waiting {t : State} (h : OrderInv t) {ahead behind : List Order} {o : Order}
    (hq : t.queue = ahead ++ o :: behind) :
    t.orderPayload o.number = wordBytes o.number ++ [0x00, BitVec.ofNat 8 (ahead.length + 1)] := by
  rw [State.orderPayload, State.findActive_none.2 (h.waiting_others hq).2, h.queuePosition_eq hq]
  rfl

/-- An order that has joined the queue is admitted from it, or still waits. -/
theorem State.admissions_stands {s : State} {o : Order} (h : o ∈ s.queue) :
    (∃ a ∈ s.admissions.active, a.number = o.number) ∨ o ∈ s.admissions.queue := by
  refine State.admissions_induct (P := fun t => (∃ a ∈ t.active, a.number = o.number) ∨ o ∈ t.queue) ?_ (.inr h)
  intro t u ht hu
  obtain ⟨k, x, rest, bs, -, hq, -, rfl⟩ := State.admitHead_some hu
  rw [State.raise_active, State.raise_queue]
  rcases ht with ⟨a, ha, hn⟩ | hw
  · exact .inl ⟨a, List.mem_append_left _ ha, hn⟩
  · rw [hq] at hw
    rcases List.mem_cons.1 hw with rfl | hw
    · exact .inl ⟨_, List.mem_append_right _ (List.mem_singleton_self _), rfl⟩
    · exact .inr hw

/-- Settles O45: the order joins the queue, the head is tried, and the answer is read off the state after that. -/
theorem orderJoinsTheQueueOrIsAdmitted : Obligations.OrderJoinsTheQueueOrIsAdmitted := by
  intro s tag number cls count plies o h ho hn hsize hcount hcls hplies hq ha hroom remakes joined position c
  subst hn
  have recipe : recipeOf o.number cls count plies = some o := hplies ▸ recipeOf_bytes hsize hcount hcls
  have remakes_first := ((orderInv_iff s).1 ho).1.remakes
  obtain ⟨ahead, behind, stands, place⟩ : ∃ ahead behind, joined.queue = ahead ++ o :: behind ∧
      position = ahead.length + 1 := by
    simp only [joined, position]
    cases o.cls with
    | normal => exact ⟨s.queue, [], rfl, rfl⟩
    | remake => exact ⟨remakes, _, rfl, rfl⟩
  have joins : s.joined o = joined := by
    simp only [State.joined, joined]
    cases hc : o.cls with
    | normal => rw [joinQueue_normal _ hc]
    | remake => rw [joinQueue_remake remakes_first hc]
  have kept : OrderInv joined.admissions := by
    have decided := (WorkKept.takeOrder s o.number cls count plies).orders ho
    rwa [State.takeOrder_joins recipe hq ha hroom, joins] at decided
  have answered : c = .next (joined.admissions.replied .press tag .ok (joined.admissions.orderPayload o.number)) := by
    refine station_acts h (Reply.ok _) ?_
    rw [State.takeOrder_joins (s := s.acceptFrame .press) recipe hq ha hroom,
      show (s.acceptFrame .press).joined o = (s.joined o).acceptFrame .press from rfl, State.admissions_acceptFrame, joins]
    rfl
  refine ⟨⟨fun a ha hn => ?_, fun ahead behind hq => ?_, ?_⟩, fun hnone => ?_, fun hempty k bs hk hlow hp => ?_⟩
  · rw [answered, ← hn, State.orderPayload_active kept ha]
  · rw [answered, State.orderPayload_waiting kept hq]
  · have := State.admissions_stands (s := joined) (o := o) (by simp [stands])
    exact this.imp_right List.append_of_mem
  · have stays : joined.admissions = joined := by
      rw [State.admissions_eq, State.admitHead_none (s := joined) ((orderInv_iff s).1 ho).1.slots hnone]
      rfl
    rw [stays] at answered kept
    rw [answered, State.orderPayload_waiting kept stands, place]
  · have alone : joined.queue = [o] := by
      rw [← joins, State.joined, hempty]
      exact List.perm_singleton.1 (joinQueue_perm [] o)
    have admitted := State.admitHead_plan alone (State.lowestFree_eq (s := joined) hk hlow) hp
    refine ⟨_, admitted, ?_⟩
    have once := State.admissions_eq joined
    rw [admitted, Option.elim_some, State.admitHead_empty (State.raise_queue _ _), Option.getD_none] at once
    rw [once] at answered kept
    rw [answered]
    congr 2
    refine State.orderPayload_active kept (a := admittedRecord joined k o bs) ?_
    rw [State.raise_active]
    exact List.mem_append_right _ (List.mem_singleton_self _)

end Sys2Proof.Machine

namespace Sys2Proof.Machine

/-! ## The retries of a growth (R107, R141) -/

theorem fillPlan_cons_unplanned {p : ActivePly} (h : p.unplanned = true) (rest : List ActivePly) (b : Fin 8)
    (bs : List (Fin 8)) : fillPlan (p :: rest) (b :: bs) = { p with bin := some b } :: fillPlan rest bs := by
  rw [fillPlan, if_pos h]

theorem fillPlan_cons_planned {p : ActivePly} (h : p.unplanned = false) (rest : List ActivePly) (bs : List (Fin 8)) :
    fillPlan (p :: rest) bs = p :: fillPlan rest bs := by
  cases bs with
  | nil => rfl
  | cons b bs => rw [fillPlan, if_neg (by simp [h])]

/-- A plan gives the unplanned plies its bins in ply order, and leaves the others. -/
theorem fillPlan_getElem? {plies : List ActivePly} {bs : List (Fin 8)}
    (hl : bs.length = (plies.filter ActivePly.unplanned).length) (n : Nat) :
    (fillPlan plies bs)[n]? = plies[n]?.map fun p =>
      if p.unplanned then { p with bin := bs[((plies.take n).filter ActivePly.unplanned).length]? } else p := by
  induction plies generalizing bs n with
  | nil => rfl
  | cons p rest ih =>
    cases hu : p.unplanned with
    | true =>
      rw [List.filter_cons_of_pos hu, List.length_cons] at hl
      obtain ⟨b, bs, rfl⟩ := List.exists_cons_of_length_eq_add_one hl
      rw [fillPlan_cons_unplanned hu]
      cases n with
      | zero => simp [hu]
      | succ n => simp [ih (Nat.succ.inj hl) n, List.take_succ_cons, hu]
    | false =>
      rw [List.filter_cons_of_neg (by simp [hu])] at hl
      rw [fillPlan_cons_planned hu]
      cases n with
      | zero => simp [hu]
      | succ n => simp [ih hl n, List.take_succ_cons, hu]

/-- A plan leaves no ply unplanned. -/
theorem fillPlan_planned {plies : List ActivePly} {bs : List (Fin 8)}
    (hl : bs.length = (plies.filter ActivePly.unplanned).length) :
    (fillPlan plies bs).any ActivePly.unplanned = false := by
  induction plies generalizing bs with
  | nil => rfl
  | cons p rest ih =>
    cases hu : p.unplanned with
    | true =>
      rw [List.filter_cons_of_pos hu, List.length_cons] at hl
      obtain ⟨b, bs, rfl⟩ := List.exists_cons_of_length_eq_add_one hl
      rw [fillPlan_cons_unplanned hu, List.any_cons, ih (Nat.succ.inj hl)]
      simp [ActivePly.unplanned]
    | false =>
      rw [List.filter_cons_of_neg (by simp [hu])] at hl
      rw [fillPlan_cons_planned hu, List.any_cons, ih hl, hu]
      rfl

/-- What a retry makes of a STALLED order's unplanned plies: no plan leaves the state as it is, and a plan gives each of
them its bin, reserves these sheets and sets RESUMED (R107, R141). -/
def Retried (w : State) (before : List Active) (a : Active) (after : List Active) (u : State) : Prop :=
  let wanted := (a.plies.filter ActivePly.unplanned).map ActivePly.ply
  (planPlies w.bins (availableNow w.bins) wanted = none → u = w) ∧
  ∀ bs, planPlies w.bins (availableNow w.bins) wanted = some bs → ∃ plies : List ActivePly,
    plies.map ActivePly.ply = a.plies.map ActivePly.ply ∧ plies.map ActivePly.taken = a.plies.map ActivePly.taken ∧
    (∀ n p q, a.plies[n]? = some p → plies[n]? = some q → (p.unplanned = false → q = p) ∧
      (p.unplanned = true → q.bin = bs[((a.plies.take n).filter ActivePly.unplanned).length]?)) ∧
    u = { w with
      active := before ++ { a with
        plies := plies
        state := if a.called.isSome ∨ ∃ p ∈ plies, p.taken = true then .drawing else .planned } :: after
      bins := Oct.of fun i => { w.bins.get i with reserved := (w.bins.get i).reserved + bs.count i } }.setPort
        .press { w.port .press with flags := (w.port .press).flags ||| 0x0004 }

/-- A reservation request, bin by bin (R91). -/
theorem reserveAll_eq (bins : Oct Bin) (bs : List (Fin 8)) :
    reserveAll bins bs = Oct.of fun i => { bins.get i with reserved := (bins.get i).reserved + bs.count i } :=
  Oct.ext_get fun i => by rw [reserveAll_get, Oct.get_of]

section
variable {w : State} (h : OrderInv w) {before after : List Active} {a : Active}
include h

theorem State.retryStalled_other (ha : a ∈ w.active) (hst : a.state ≠ .stalled) : w.retryStalled a.slot = w := by
  rw [State.retryStalled, State.findSlot_mem h ha]
  exact if_neg hst

variable (hs : w.active = before ++ a :: after) (hst : a.state = .stalled)
include hs hst

theorem State.retryStalled_unplanned
    (hp : planPlies w.bins (availableNow w.bins) ((a.plies.filter ActivePly.unplanned).map ActivePly.ply) = none) :
    w.retryStalled a.slot = w := by
  rw [State.retryStalled, State.findSlot_split h hs]
  dsimp only
  rw [if_pos hst, hp]

theorem State.retryStalled_planned {bs : List (Fin 8)}
    (hp : planPlies w.bins (availableNow w.bins) ((a.plies.filter ActivePly.unplanned).map ActivePly.ply) = some bs) :
    w.retryStalled a.slot = { w with
      active := before ++ { a with
        plies := fillPlan a.plies bs, state := workedOut (fillPlan a.plies bs) a.called } :: after
      bins := reserveAll w.bins bs }.raise .resumed := by
  have active := State.setActive_split (a' := { a with
    plies := fillPlan a.plies bs, state := workedOut (fillPlan a.plies bs) a.called }) h hs rfl
  rw [State.retryStalled, State.findSlot_split h hs]
  dsimp only
  rw [if_pos hst, hp, ← active]
  rfl

theorem State.retryStalled_retried : Retried w before a after (w.retryStalled a.slot) := by
  refine ⟨State.retryStalled_unplanned h hs hst, fun bs hp => ?_⟩
  have length : bs.length = (a.plies.filter ActivePly.unplanned).length := by
    simpa using (planPlies_fits hp).1
  have state : workedOut (fillPlan a.plies bs) a.called =
      if a.called.isSome ∨ ∃ p ∈ fillPlan a.plies bs, p.taken = true then .drawing else .planned := by
    rw [workedOut, fillPlan_planned length]
    simp only [Bool.false_eq_true, if_false, Bool.or_eq_true, List.any_eq_true]
  refine ⟨fillPlan a.plies bs, (fillPlan_plies a.plies bs).1, (fillPlan_plies a.plies bs).2, fun n p q hpn hq => ?_, ?_⟩
  · rw [fillPlan_getElem? length, hpn, Option.map_some, Option.some.injEq] at hq
    subst hq
    exact ⟨fun hu => by simp [hu], fun hu => by simp [hu]⟩
  · rw [State.retryStalled_planned h hs hst hp, state, reserveAll_eq]
    rfl

/-- A retry leaves the other orders where they stand. -/
theorem State.retryStalled_active : ∃ x, (w.retryStalled a.slot).active = before ++ x :: after := by
  cases hp : planPlies w.bins (availableNow w.bins) ((a.plies.filter ActivePly.unplanned).map ActivePly.ply) with
  | none => exact ⟨a, by rw [State.retryStalled_unplanned h hs hst hp, hs]⟩
  | some bs => exact ⟨_, by rw [State.retryStalled_planned h hs hst hp, State.raise_active]⟩

end

/-- Retries of orders that are not STALLED change nothing. -/
theorem foldl_retryStalled_others {w : State} (h : OrderInv w) {l : List Active}
    (hl : ∀ x ∈ l, x ∈ w.active ∧ x.state ≠ .stalled) : (l.map Active.slot).foldl State.retryStalled w = w := by
  induction l with
  | nil => rfl
  | cons x l ih =>
    obtain ⟨⟨mem, other⟩, rest⟩ := List.forall_mem_cons.1 hl
    rw [List.map_cons, List.foldl_cons, State.retryStalled_other h mem other, ih rest]

theorem State.retries_none {s : State} (h : OrderInv s) (hn : NoneStalled s) : s.retries = s :=
  foldl_retryStalled_others h fun x hx => ⟨hx, hn x hx⟩

/-- With one order STALLED, its retry is all that the retries do. -/
theorem State.retries_one {s : State} (h : OrderInv s) {before after : List Active} {a : Active}
    (hs : s.active = before ++ a :: after) (hst : a.state = .stalled)
    (hothers : ∀ x ∈ before ++ after, x.state ≠ .stalled) : s.retries = s.retryStalled a.slot := by
  obtain ⟨x, active⟩ := State.retryStalled_active h hs hst
  have kept : OrderInv (s.retryStalled a.slot) := (WorkKept.retryStalled s a.slot).orders h
  have ahead : ∀ y ∈ before, y ∈ s.active ∧ y.state ≠ .stalled := fun y hy =>
    ⟨by simp [hs, hy], hothers y (by simp [hy])⟩
  have behind : ∀ y ∈ after, y ∈ (s.retryStalled a.slot).active ∧ y.state ≠ .stalled := fun y hy =>
    ⟨by simp [active, hy], hothers y (by simp [hy])⟩
  rw [State.retries, hs, List.map_append, List.map_cons, List.foldl_append, List.foldl_cons,
    foldl_retryStalled_others h ahead, foldl_retryStalled_others kept behind]

/-- The slot record of an admission, as the statements write it. -/
theorem admittedRecord_eq (s : State) (k : Fin 2) (o : Order) (bs : List (Fin 8)) : admittedRecord s k o bs = {
    slot := k, number := o.number, cls := o.cls
    plies := List.zipWith (fun p b => { ply := p, bin := some b, taken := false }) o.plies bs
    state := .planned, called := none, withdrawn := none, hold := some (s.ram.orderHoldTime * 1000)
    seq := s.admissionSeq } := by
  rw [admittedRecord, List.zip, List.map_zipWith]

/-- Settles O44: the try of the head, and the retries one by one. -/
theorem growthTriesStalledOrdersThenTheHead : Obligations.GrowthTriesStalledOrdersThenTheHead := by
  intro s ho
  refine ⟨State.admitHead_none ((orderInv_iff s).1 ho).1.slots, fun o rest k bs hq hk hlow hp => ?_, ?_, fun hn => ?_, ?_⟩
  · intro planned admitted
    rw [State.admitHead_plan hq (State.lowestFree_eq hk hlow) hp, admittedRecord_eq, reserveAll_eq]
    rfl
  · rw [State.admissions_eq]
    cases s.admitHead with
    | none => rfl
    | some t => cases ht : t.admitHead <;> simp [ht]
  · rw [State.growth, State.retries_none ho hn]
  intro retried
  refine ⟨fun before after a hs hst hothers => ?_, fun older younger hs holder hyounger => ?_⟩
  · refine ⟨s.retryStalled a.slot, State.retryStalled_retried ho hs hst, ?_⟩
    rw [State.growth, State.retries_one ho hs hst hothers]
  · obtain ⟨x, active⟩ := State.retryStalled_active (before := []) ho hs holder
    have kept : OrderInv (s.retryStalled older.slot) := (WorkKept.retryStalled s older.slot).orders ho
    refine ⟨s.retryStalled older.slot, (s.retryStalled older.slot).retryStalled younger.slot, x,
      State.retryStalled_retried (before := []) ho hs holder, active,
      State.retryStalled_retried (before := [x]) kept active hyounger, ?_⟩
    rw [State.growth, State.retries, hs]
    rfl

end Sys2Proof.Machine

namespace Sys2Proof.Machine

/-! ## Calls: NEXT_PLY and UNCALL (R120 to R123, R127, R134) -/

/-- An order's state is the one that its unplanned plies, its call and its taken plies give it (R121). -/
theorem workedOut_eq {plies : List ActivePly} {called : Option Nat} {x : ActiveState}
    (stalled : (∃ q ∈ plies, q.taken = false ∧ q.bin = none) → x = .stalled)
    (drawing : (¬ ∃ q ∈ plies, q.taken = false ∧ q.bin = none) →
      called.isSome = true ∨ (∃ q ∈ plies, q.taken = true) → x = .drawing)
    (planned : (¬ ∃ q ∈ plies, q.taken = false ∧ q.bin = none) →
      ¬ (called.isSome = true ∨ ∃ q ∈ plies, q.taken = true) → x = .planned) :
    workedOut plies called = x := by
  have lacking : plies.any ActivePly.unplanned = true ↔ ∃ q ∈ plies, q.taken = false ∧ q.bin = none := by
    simp [ActivePly.unplanned]
  have drawn : (called.isSome || plies.any ActivePly.taken) = true ↔
      called.isSome = true ∨ ∃ q ∈ plies, q.taken = true := by simp
  unfold workedOut
  split
  next h => exact (stalled (lacking.1 h)).symm
  next h =>
    rw [lacking] at h
    split
    next hd => exact (drawing h (drawn.1 hd)).symm
    next hd => exact (planned h (mt drawn.2 hd)).symm

/-- A ply of an order is taken when one stands before its next ply. -/
theorem Active.Drawn.taken_iff {a : Active} {done left : List ActivePly} {p : ActivePly} (h : a.Drawn done p left) :
    (∃ q ∈ a.plies, q.taken = true) ↔ done ≠ [] := by
  rw [h.plies]
  constructor
  · rintro ⟨q, hq, ht⟩ rfl
    rcases List.mem_cons.1 hq with rfl | hq
    · exact absurd (h.next_untaken.symm.trans ht) (by simp)
    · exact absurd ((h.left_untaken q hq).symm.trans ht) (by simp)
  · intro hd
    obtain ⟨q, hq⟩ := List.exists_mem_of_ne_nil done hd
    exact ⟨q, by simp [hq], h.done_taken q hq⟩

/-- The whole state with an active order replaced where it stands. -/
theorem State.setActive_eq {s : State} (h : OrderInv s) {before after : List Active} {a a' : Active}
    (hs : s.active = before ++ a :: after) (hk : a'.slot = a.slot) :
    s.setActive a' = { s with active := before ++ a' :: after } := by
  rw [← State.setActive_split h hs hk]
  rfl

/-- NEXT_PLY of an order that is not CLOSING goes by Table 6-3. -/
theorem State.nextPly_open {s : State} {number : Word} {a : Active} (found : s.findActive number = some a)
    (hopen : ∀ c, a.state ≠ .closing c) : s.nextPly number = s.callNext a := by
  unfold State.nextPly
  rw [found]
  dsimp only
  split
  next c hc => exact absurd hc (hopen c)
  all_goals rfl

/-- The three answers to NEXT_PLY: WAIT, the call repeated, and a new call (R122, R123). -/
theorem State.callNext_cases (s : State) {a : Active} {n : Nat} {p : ActivePly} (next : a.next = some (n, p)) :
    (p.bin = none → s.callNext a = unchanged s ⟨.wait, [byteOf n]⟩) ∧
    ∀ b, p.bin = some b →
      (a.called ≠ none → s.callNext a = unchanged s (Reply.ok (s.callPayload n p b))) ∧
      (a.called = none → s.callNext a = (s.setActive (a.call n), some (Reply.ok (s.callPayload n p b)))) := by
  unfold State.callNext
  rw [next]
  dsimp only
  refine ⟨fun hb => by rw [hb], fun b hb => ?_⟩
  rw [hb]
  exact ⟨fun hc => if_pos (Option.isSome_iff_ne_none.2 hc), fun hc => if_neg (by simp [hc])⟩

/-- UNCALL of an order with a ply called. -/
theorem State.uncall_called {s : State} {number : Word} {a : Active} (found : s.findActive number = some a) {n : Nat}
    (hn : a.called = some n) : s.uncall number = s.uncallActive a n := by
  unfold State.uncall
  rw [found]
  dsimp only
  rw [hn]

/-- UNCALL of an order that is not CLOSING clears its call (R127). -/
theorem State.uncallActive_open (s : State) {a : Active} (hopen : ∀ c, a.state ≠ .closing c) (n : Nat) :
    s.uncallActive a n = (s.clearCall a, some (Reply.ok [byteOf n, 0xFF])) := by
  unfold State.uncallActive
  split
  next c hc => exact absurd hc (hopen c)
  all_goals rfl

/-- UNCALL of a CLOSING order settles it (R134). -/
theorem State.uncallActive_closing (s : State) {a : Active} {c : AbortCause} (hc : a.state = .closing c) (n : Nat) :
    s.uncallActive a n = (s.settleClosing a c, some (Reply.ok [byteOf n, byteOf c.code])) := by
  unfold State.uncallActive
  rw [hc]

theorem State.settleClosing_acceptFrame (s : State) (p : Port) (a : Active) (c : AbortCause) :
    (s.acceptFrame p).settleClosing a c = (s.settleClosing a c).acceptFrame p := by
  unfold State.settleClosing
  dsimp only
  rw [← State.afterRelease_acceptFrame]
  exact congrArg (State.afterRelease · _) (State.leaveSlot_acceptFrame { s with bins := _ } p a _)

/-- The settlement of a CLOSING order: its called ply's reservation is released, it finishes, and a growth follows
(R134, R135). -/
theorem State.settleClosing_split {s : State} (h : OrderInv s) {before after : List Active} {a : Active}
    (hs : s.active = before ++ a :: after) {b : Fin 8} (hb : a.calledBin = some b) (c : AbortCause) :
    s.settleClosing a c = ({ s with bins := releaseOne s.bins b }.finishOrder (before ++ after) a.number
      (.aborted c)).growth := by
  unfold State.settleClosing
  rw [hb]
  dsimp only
  rw [State.leaveSlot_finishOrder]
  exact congrArg (fun l => (State.finishOrder _ l a.number _).growth) (State.freeSlot_split h hs)

/-- Settles O47: the next ply is the one at which the plies are split, and the called one is no other. -/
theorem nextPlyCallsAndUncallClears : Obligations.NextPlyCallsAndUncallClears := by
  intro s tag before after a done left p h ho hs hplies hd hp n answer lacking
  have drawn := Active.drawn_of_split (((orderInv_iff s).1 ho).1.fits a (by simp [hs])) hplies hd hp
  have found : (s.acceptFrame .press).findActive a.number = some a := State.findActive_split ho hs
  have called_next (hcalled : a.called ≠ none) : a.called = some n := by
    obtain ⟨m, hm⟩ := Option.ne_none_iff_exists'.1 hcalled
    rw [hm, (drawn.called m hm).1]
  refine ⟨fun hopen => ?_, fun c b hc hb => ?_⟩
  · have decision := State.nextPly_open found hopen
    obtain ⟨waits, calls⟩ := (s.acceptFrame .press).callNext_cases (Active.next_split hplies hd hp)
    refine ⟨fun hb => station_answers h ⟨.wait, [byteOf n]⟩ (decision.trans (waits hb)),
      fun b hb hcalled => station_answers h (Reply.ok (answer b)) (decision.trans ((calls b hb).1 hcalled)),
      fun b hb hcalled x hstalled hdrawing => station_acts h (Reply.ok (answer b)) (decision.trans ?_),
      fun hcalled x hstalled hdrawing hplanned => station_acts h (Reply.ok [byteOf n, 0xFF]) ?_⟩
    · have state : workedOut a.plies (some n) = x :=
        workedOut_eq hstalled (fun hl _ => hdrawing hl) fun _ hn => absurd (.inl rfl) hn
      rw [(calls b hb).2 hcalled, State.setActive_eq (s := s.acceptFrame .press) (a' := a.call n) ho hs rfl, Active.call,
        state]
      rfl
    · have state : workedOut a.plies none = x := by
        have some_drawn : ((none : Option Nat).isSome = true ∨ ∃ q ∈ a.plies, q.taken = true) ↔ done ≠ [] := by
          rw [drawn.taken_iff]
          simp
        exact workedOut_eq hstalled (fun hl ht => hdrawing hl (some_drawn.1 ht))
          fun hl ht => hplanned hl (not_ne_iff.1 (mt some_drawn.2 ht))
      rw [State.uncall_called found (called_next hcalled), State.uncallActive_open _ hopen, State.clearCall, state,
        State.setActive_eq (s := s.acceptFrame .press) (a' := { a with called := none, state := x }) ho hs rfl]
      rfl
  · have hn : a.called = some n :=
      called_next (Option.isSome_iff_ne_none.1 (drawn.closing (Active.isClosing_of_state hc)).1)
    have bin : a.calledBin = some b := (Active.calledBin_split hplies hn).trans hb
    refine station_acts h (Reply.ok [byteOf n, byteOf c.code]) ?_
    rw [State.uncall_called found hn, State.uncallActive_closing _ hc, State.settleClosing_acceptFrame,
      State.settleClosing_split ho hs bin]
    rfl

end Sys2Proof.Machine

namespace Sys2Proof

/-! ## Frames clocked in bit by bit (R146, R149) -/

/-- The byte above bit k, and bit k taken behind it, are the byte from bit k on. -/
theorem take_bit (b : Byte) (k : Nat) : (b >>> (k + 1)) <<< 1 ||| (if b.getLsbD k then 1 else 0) = b >>> k := by
  refine BitVec.eq_of_getLsbD_eq fun i hi => ?_
  rw [BitVec.getLsbD_or, BitVec.getLsbD_shiftLeft, BitVec.getLsbD_ushiftRight, BitVec.getLsbD_ushiftRight]
  rcases i with _ | i
  · cases h : b.getLsbD k <;> simp
  · have above : (if b.getLsbD k then (1 : Byte) else 0).getLsbD (i + 1) = false := by
      split <;> simp [BitVec.getLsbD_one]
    rw [above]
    simp [hi, show k + 1 + i = k + (i + 1) by omega]

/-- What a port holds of a window that has brought whole bytes alone. -/
def Shift.whole (f : List Byte) : Shift :=
  { bits := 8 * f.length, acc := 0, held := f.take 32, allLow := f.all (· == 0x00), allHigh := f.all (· == 0xFF) }

/-- A bit that leaves its byte incomplete. -/
theorem Shift.clock_within {h : Shift} (hn : (h.bits + 1) % 8 ≠ 0) (bit : Bool) :
    h.clock bit = { h with bits := h.bits + 1, acc := h.acc <<< 1 ||| (if bit then 1 else 0) } := if_neg hn

/-- The eighth bit of a byte. -/
theorem Shift.clock_last {h : Shift} (hn : (h.bits + 1) % 8 = 0) {bit : Bool} {b : Byte}
    (hb : h.acc <<< 1 ||| (if bit then 1 else 0) = b) :
    h.clock bit = {
      bits := h.bits + 1, acc := 0, held := if h.held.length < 32 then h.held ++ [b] else h.held
      allLow := h.allLow && b == 0x00, allHigh := h.allHigh && b == 0xFF } := by
  subst hb
  exact if_pos hn

/-- The eight bits of a byte, most significant first, append the byte. -/
theorem Shift.clock_byte (f : List Byte) (b : Byte) : (byteBits b).foldl Shift.clock (.whole f) = .whole (f ++ [b]) := by
  have within (n k : Nat) (hn : (n + 1) % 8 ≠ 0) (held : List Byte) (low high : Bool) :
      Shift.clock ⟨n, b >>> (k + 1), held, low, high⟩ (b.getLsbD k) = ⟨n + 1, b >>> k, held, low, high⟩ := by
    rw [Shift.clock_within hn]
    simp only [take_bit]
  have held : (if (f.take 32).length < 32 then f.take 32 ++ [b] else f.take 32) = (f ++ [b]).take 32 := by
    rw [List.length_take]
    split
    · rw [List.take_of_length_le (by omega), List.take_of_length_le (by simp; omega)]
    · rw [List.take_append_of_le_length (by omega)]
  have begun : Shift.whole f =
      ⟨8 * f.length, b >>> (7 + 1), f.take 32, f.all (· == 0x00), f.all (· == 0xFF)⟩ := by
    rw [BitVec.ushiftRight_eq_zero (by omega)]
    rfl
  rw [begun]
  simp only [byteBits, List.foldl_cons, List.foldl_nil]
  iterate 7 rw [within _ _ (by omega)]
  rw [Shift.clock_last (b := b) (by dsimp only; omega) (by simpa using take_bit b 0), held]
  simp [Shift.whole, Nat.mul_add]

/-- A frame clocked in whole is what the port then holds. -/
theorem Shift.ofBytes_eq (f : List Byte) : Shift.ofBytes f = .whole f := by
  have behind (g f : List Byte) : (g.flatMap byteBits).foldl Shift.clock (.whole f) = .whole (f ++ g) := by
    induction g generalizing f with
    | nil => simp
    | cons b g ih => rw [List.flatMap_cons, List.foldl_append, Shift.clock_byte, ih, List.append_assoc, List.singleton_append]
  exact behind f []

/-- Each bit counts. -/
theorem Shift.foldl_clock_bits (bits : List Bool) (h : Shift) :
    (bits.foldl Shift.clock h).bits = h.bits + bits.length := by
  have one (h : Shift) (bit : Bool) : (h.clock bit).bits = h.bits + 1 := by
    unfold Shift.clock
    dsimp only
    split <;> rfl
  induction bits generalizing h with
  | nil => rfl
  | cons bit bits ih =>
    rw [List.foldl_cons, ih, one, List.length_cons]
    omega

/-- The length that a frame must have is told by its first 32 bytes (R149, R161). -/
theorem frameLength_take (f : List Byte) : frameLength (f.take 32) = frameLength f := by
  have first : byteAt (f.take 32) 0 = byteAt f 0 := by simp [byteAt, List.getD_eq_getElem?_getD]
  have sixth : (f.take 32)[5]? = f[5]? := List.getElem?_take_of_lt (by omega)
  unfold frameLength
  rw [first, sixth]

section
variable {f : List Byte} (p : Port)

/-- A frame of bytes 00h alone (R149). -/
theorem decodeFrame_stuckLow (hf : f ≠ []) (h : ∀ b ∈ f, b = 0x00) :
    decodeFrame p (Shift.ofBytes f) = some (.frameRejected p .stuckLow) := by
  have some_bits : 8 * f.length ≠ 0 := by simpa using hf
  have low : f.all (· == 0x00) = true := by simpa using h
  simp only [decodeFrame, Shift.classify, Shift.ofBytes_eq, Shift.whole, if_neg some_bits, Nat.mul_mod_right, ne_eq,
    not_true_eq_false, if_false, low, if_true]

/-- A frame of bytes FFh alone (R149). -/
theorem decodeFrame_stuckHigh (hf : f ≠ []) (h : ∀ b ∈ f, b = 0xFF) :
    decodeFrame p (Shift.ofBytes f) = some (.frameRejected p .stuckHigh) := by
  have some_bits : 8 * f.length ≠ 0 := by simpa using hf
  have low : f.all (· == 0x00) = false := by
    obtain ⟨b, rest, rfl⟩ := List.exists_cons_of_ne_nil hf
    simp [h b (by simp)]
  have high : f.all (· == 0xFF) = true := by simpa using h
  simp only [decodeFrame, Shift.classify, Shift.ofBytes_eq, Shift.whole, if_neg some_bits, Nat.mul_mod_right, ne_eq,
    not_true_eq_false, if_false, low, high, if_true, Bool.false_eq_true]

/-- A frame that is neither of bytes 00h nor of bytes FFh alone: its length decides (R149). -/
theorem decodeFrame_mixed (hlow : ∃ b ∈ f, b ≠ 0x00) (hhigh : ∃ b ∈ f, b ≠ 0xFF) :
    decodeFrame p (Shift.ofBytes f) =
      if frameLength f = none ∨ frameLength f = some f.length then some (readFrame p (f.take 32))
      else some (.frameRejected p .length) := by
  have some_bits : 8 * f.length ≠ 0 := by
    obtain ⟨b, hb, -⟩ := hlow
    simpa using List.ne_nil_of_mem hb
  have low : f.all (· == 0x00) = false := by simpa using hlow
  have high : f.all (· == 0xFF) = false := by simpa using hhigh
  simp only [decodeFrame, Shift.classify, Shift.ofBytes_eq, Shift.whole, if_neg some_bits, Nat.mul_mod_right, ne_eq,
    not_true_eq_false, if_false, low, high, Bool.false_eq_true, frameLength_take, Nat.mul_div_cancel_left _ (show 0 < 8 by omega)]
  cases frameLength f with
  | none => simp
  | some n =>
    by_cases hn : f.length = n
    · simp [hn]
    · simp [hn, Ne.symm hn]

/-- A frame of the length that its command has is read as that command (R149). -/
theorem decodeFrame_accepted (hlow : ∃ b ∈ f, b ≠ 0x00) (hhigh : ∃ b ∈ f, b ≠ 0xFF)
    (hl : frameLength f = none ∨ frameLength f = some f.length) :
    decodeFrame p (Shift.ofBytes f) = some (readFrame p (f.take 32)) :=
  (decodeFrame_mixed p hlow hhigh).trans (if_pos hl)

end

/-- A window that ended inside a byte (R149). -/
theorem decodeFrame_bitCount (p : Port) {bits : List Bool} (h : bits.length % 8 ≠ 0) :
    decodeFrame p (bits.foldl Shift.clock Shift.fresh) = some (.frameRejected p .bitCount) := by
  have count : (bits.foldl Shift.clock Shift.fresh).bits = bits.length := by
    rw [Shift.foldl_clock_bits]
    exact Nat.zero_add _
  have some_bits : bits.length ≠ 0 := fun h0 => h (by rw [h0])
  simp only [decodeFrame, Shift.classify, count, if_neg some_bits, if_pos h]

end Sys2Proof

namespace Sys2Proof

/-! ## The frame of a station command (Tables 7-8, 7-9) -/

/-- A frame that begins with a command code and has that command's length is read as the command. -/
theorem decodeFrame_known {p : Port} {code : Byte} {rest : List Byte} {c : Instr} (hcode : code ∈ knownCodes)
    (hl : frameLength (code :: rest) = some (rest.length + 1)) (hc : readFrame p ((code :: rest).take 32) = c) :
    decodeFrame p (Shift.ofBytes (code :: rest)) = some c := by
  have codes : ∀ x ∈ knownCodes, x ≠ 0x00 ∧ x ≠ 0xFF := by decide
  obtain ⟨low, high⟩ := codes code hcode
  rw [← hc]
  exact decodeFrame_accepted p ⟨code, by simp, low⟩ ⟨code, by simp, high⟩ (.inr hl)

/-- A frame whose first byte is no command code is read as an unknown command (R153, case 1). -/
theorem readFrame_unknown (p : Port) {f : List Byte} (h : knownCodes.contains (byteAt f 0) = false) :
    readFrame p f = .unknownCommand p (byteAt f 0) f[1]? := by
  have known {n : Nat} (hn : (byteAt f 0).toNat = n) : knownCodes.contains (BitVec.ofNat 8 n) = false := by
    rw [← hn, BitVec.ofNat_toNat, BitVec.setWidth_eq, h]
  unfold readFrame
  dsimp only
  split
  case h_29 => rfl
  all_goals next hn => exact absurd (known hn) (by decide)

theorem frameLength_unknown {f : List Byte} (h : knownCodes.contains (byteAt f 0) = false) : frameLength f = none := by
  unfold frameLength
  exact if_pos (by rw [h]; rfl)

/-- FETCH, whatever stands in the bytes that it ignores (R156). -/
theorem decodeFrame_fetch (p : Port) (tag : Byte) {ignored : List Byte} (h : ignored.length = 30) :
    decodeFrame p (Shift.ofBytes (0x01 :: tag :: ignored)) = some (.fetch p tag) := by
  refine decodeFrame_known (by decide) ?_ rfl
  rw [List.length_cons, h]
  rfl

/-- ORDER: the bytes behind the plies that the port holds are not read (R149, R161). -/
theorem decodeFrame_order (p : Port) (tag : Byte) (number : Word) (cls count : Byte) {plies : List Byte}
    (h : plies.length = min count.toNat 26) :
    decodeFrame p (Shift.ofBytes ([0x30, tag] ++ wordBytes number ++ [cls, count] ++ plies ++
      List.replicate (count.toNat - plies.length) 0)) = some (.order p tag number cls count plies) := by
  generalize hbehind : List.replicate (count.toNat - plies.length) (0 : Byte) = behind
  have length : plies.length + behind.length = count.toNat := by
    rw [← hbehind, List.length_replicate]
    omega
  have held : (plies ++ behind).take 26 = plies := by
    by_cases hfew : count.toNat ≤ 26
    · have none_behind : behind = [] := List.length_eq_zero_iff.1 (by omega)
      rw [none_behind, List.append_nil, List.take_of_length_le (by omega)]
    · rw [List.take_append_of_le_length (by omega), List.take_of_length_le (by omega)]
  have frame : [0x30, tag] ++ wordBytes number ++ [cls, count] ++ plies ++ behind =
      0x30 :: ([tag, number.extractLsb' 8 8, number.extractLsb' 0 8, cls, count] ++ (plies ++ behind)) := by
    simp [wordBytes]
  rw [frame]
  refine decodeFrame_known (by decide) ?_ ?_
  · rw [List.length_append, List.length_append, length]
    show some (6 + count.toNat) = some (5 + count.toNat + 1)
    congr 1
    omega
  · show Instr.order p tag (number.extractLsb' 8 8 ++ number.extractLsb' 0 8) cls count ((plies ++ behind).take 26) = _
    rw [held, Machine.wordBytes_append]

/-- A command whose only argument is a number of two bytes. -/
theorem decodeFrame_word {p : Port} {code tag : Byte} {w : Word} {make : Word → Instr} (hcode : code ∈ knownCodes)
    (hl : ∀ x y, frameLength [code, tag, x, y] = some 4)
    (hc : ∀ x y : Byte, readFrame p [code, tag, x, y] = make (x ++ y)) :
    decodeFrame p (Shift.ofBytes ([code, tag] ++ wordBytes w)) = some (make w) := by
  refine decodeFrame_known hcode (hl _ _) ?_
  refine (hc _ _).trans ?_
  rw [Machine.wordBytes_append]

end Sys2Proof

namespace Sys2Proof.Machine

/-- Settles O3: the code decides the length and the reading, and the fields stand where they are read. -/
theorem frameIsTakenAsItsCommand : Obligations.FrameIsTakenAsItsCommand := by
  intro c p f hwf hf
  have word := wordBytes_append
  cases c
  case unknownCommand code tag =>
    obtain ⟨hcode, hstuck⟩ : knownCodes.contains code = false ∧ (tag.isSome = true ∨ code ≠ 0x00 ∧ code ≠ 0xFF) := by
      simpa [Instr.wellFormed] using hwf
    have unknown (rest : List Byte) (hlow : ∃ b ∈ code :: rest, b ≠ 0x00) (hhigh : ∃ b ∈ code :: rest, b ≠ 0xFF)
        (hrest : rest.length < 32) :
        decodeFrame p (Shift.ofBytes (code :: rest)) = some (.unknownCommand p code rest[0]?) := by
      rw [decodeFrame_accepted p hlow hhigh (.inl (frameLength_unknown hcode)), List.take_of_length_le hrest,
        readFrame_unknown p (f := code :: rest) hcode]
      rfl
    cases tag with
    | none =>
      cases hf
      obtain ⟨low, high⟩ : code ≠ 0x00 ∧ code ≠ 0xFF := by simpa using hstuck
      exact unknown [] ⟨code, by simp, low⟩ ⟨code, by simp, high⟩ (by decide)
    | some tag =>
      cases hf
      exact unknown [tag, 0x55] ⟨0x55, by simp, by decide⟩ ⟨0x55, by simp, by decide⟩ (Nat.le_of_ble_eq_true rfl)
  case fetch => cases hf; exact decodeFrame_fetch _ _ (List.length_replicate ..)
  case order tag number cls count plies =>
    cases hf
    exact decodeFrame_order p tag number cls count (by simpa [Instr.wellFormed] using hwf)
  case readBin tag bin depth =>
    cases hf
    refine decodeFrame_known (by decide) rfl (congrArg₂ (Instr.readBin p tag) BitVec.extractLsb'_append_eq_right ?_)
    show (depth.extractLsb' 8 1 ++ bin).extractLsb' 7 1 ++ depth.extractLsb' 0 8 = depth
    rw [BitVec.extractLsb'_append_eq_left, BitVec.extractLsb'_append_extractLsb'_eq_extractLsb' (by rfl), BitVec.extractLsb'_eq_self]
  case readSheet tag sheet part selector =>
    cases hf
    exact decodeFrame_known (by decide) rfl (congrArg (Instr.readSheet p tag · part selector) (word sheet))
  case setSetting tag key value =>
    cases hf
    refine decodeFrame_known (by decide) rfl (congrArg₂ (Instr.setSetting p tag) (word key) ?_)
    show ((value.extractLsb' 16 16).extractLsb' 8 8 ++ (value.extractLsb' 16 16).extractLsb' 0 8) ++
      ((value.extractLsb' 0 16).extractLsb' 8 8 ++ (value.extractLsb' 0 16).extractLsb' 0 8) = value
    rw [word, word, BitVec.extractLsb'_append_extractLsb'_eq_extractLsb' (by rfl), BitVec.extractLsb'_eq_self]
  case readEvents | setAttnMask | getSetting | readFaults | dropped | divert | cancel | nextPly | taken | uncall
    | orderStatus =>
    cases hf
    exact decodeFrame_word (by decide) (fun _ _ => rfl) fun _ _ => rfl
  case status | portReset | start | stop | loadSettings | storeSettings | binState | laneUp | readLines | resetLine
    | whereTo | emptied =>
    cases hf
    exact decodeFrame_known (by decide) rfl rfl
  all_goals cases hf

end Sys2Proof.Machine

namespace Sys2Proof.Machine

/-! ## The clock and the rise of select (R146, R149, R152) -/

/-- Without an open window the rise of select takes no frame (R146, R152). -/
theorem State.riseSelect_closed {s : State} {p : Port} (h : (s.port p).window.isOpen = false) :
    s.riseSelect p = s.setPort p { s.port p with window := .idle } := by
  unfold State.riseSelect
  dsimp only
  split
  next hw => rw [hw] at h; cases h
  all_goals rfl

/-- A window that ends without a frame (R149, case 1). -/
theorem State.riseSelect_noFrame {s : State} {p : Port} (h : decodeFrame p (s.port p).shift = none) :
    s.riseSelect p = s.setPort p { s.port p with window := .idle } := by
  unfold State.riseSelect
  dsimp only
  split
  · rw [h]
  all_goals rfl

/-- A window that ends with a command (R149). -/
theorem State.riseSelect_command {s : State} {p : Port} {c : Instr} (hw : (s.port p).window.isOpen = true)
    (h : decodeFrame p (s.port p).shift = some c) : s.riseSelect p = { s with pending := s.pending ++ [c] } := by
  obtain ⟨b, answer, n, hw⟩ := (Window.isOpen_iff _).1 hw
  unfold State.riseSelect
  dsimp only
  rw [hw, h]
  rfl

/-- A port with no open window: nothing on SDO, and neither select nor the clock moves a bit (R146, R152). -/
theorem State.closed_port {s : State} {p : Port} (h : (s.port p).window.isOpen = false) :
    (s.port p).sdo = none ∧
    s.takeInput (.selectRise p) = s.setPort p { s.port p with window := .idle } ∧
    (∀ bit, s.takeInput (.clockRise p bit) = s.setPort p { s.port p with sck := true }) ∧
    s.takeInput (.clockFall p) = s.setPort p { s.port p with sck := false } := by
  refine ⟨PortState.sdo_closed fun b answer n hw => ?_, State.riseSelect_closed h,
    fun bit => congrArg (s.setPort p) (PortState.clockRise_none bit (.inr h)),
    congrArg (s.setPort p) (PortState.clockFall_none (.inr h))⟩
  rw [hw] at h
  cases h

/-- Settles O5: the edges in an open window and without one, and the cases of R149 in order. -/
theorem riseOfSelectClassifiesTheFrame : Obligations.RiseOfSelectClassifiesTheFrame := by
  refine ⟨fun s p => ⟨fun hclosed => State.closed_port ?_, fun b answer n hopen => ⟨State.riseSelect_noFrame,
    fun c => State.riseSelect_command ?_, fun bit => ⟨fun low => ?_, fun high => ?_⟩⟩⟩,
    fun p => ⟨rfl, fun bits => decodeFrame_bitCount p, fun f hf => ⟨decodeFrame_stuckLow p hf, decodeFrame_stuckHigh p hf,
      fun hlow hhigh => ⟨fun n hn hne => ?_, decodeFrame_accepted p hlow hhigh⟩⟩⟩⟩
  · rw [Bool.eq_false_iff, ne_eq, Window.isOpen_iff]
    rintro ⟨b, answer, n, hw⟩
    exact hclosed b answer n hw
  · rw [hopen]
    rfl
  · exact congrArg (s.setPort p) (PortState.clockRise_edge bit low (by rw [hopen]; rfl))
  · have same : (s.port p).clockRise bit = s.port p := by
      rw [PortState.clockRise_none bit (.inl high), ← high]
    exact (congrArg (s.setPort p) same).trans (s.port_eta p)
  · rw [decodeFrame_mixed p hlow hhigh, hn, if_neg]
    simp [hne]

/-! ## Frames that are rejected, and FETCH (R150, R152, R156) -/

theorem exec_frameRejected {s : State} (h : s.porstLow = false) (p : Port) (kind : RejectKind) :
    exec (.frameRejected p kind) s = .next (s.rejectFrame p .idle (.rejected kind)) :=
  powered_next h fun s => s.rejectFrame p .idle (.rejected kind)

theorem exec_selectTimeout {s : State} (h : s.porstLow = false) (p : Port) :
    exec (.selectTimeout p) s = .next (s.rejectFrame p .expired .selectTimeout) :=
  powered_next h fun s => s.rejectFrame p .expired .selectTimeout

/-- A decision that places no answer. -/
theorem station_silent {s t : State} (h : s.porstLow = false) {p : Port} {tag : Byte} {right acts : Bool}
    {body : State → State × Option Reply} (hb : dispatched right acts body (s.acceptFrame p) = (t, none)) :
    station p tag right acts body s = .next t := by
  rw [station_next h, hb]
  rfl

/-- Settles O19: the kept answer is offered by the next window, whose status byte shows the error. -/
theorem rejectedFrameKeepsTheAnswer : Obligations.RejectedFrameKeepsTheAnswer := by
  intro s p kind second hp
  generalize ht : s.rejectFrame p .idle (.rejected kind) = t
  have rejected : t.port p = { s.port p with window := .idle, frameErr := true, lastError := .rejected kind } := by
    rw [← ht, State.rejectFrame, State.setPort_port_self]
  have high : t.porstLow = false := by rw [← ht]; exact hp
  obtain ⟨-, -, -, -, -, frameErr, -, quiet⟩ := t.statusByte_bits p
  refine ⟨t, (exec_frameRejected hp p kind).trans (congrArg _ ht), ht.symm, by rw [rejected],
    ⟨t.beginWindow p, t.statusByte p, ?_, ?_, ?_, ?_⟩, t.rejectFrame p .idle (.rejected second), exec_frameRejected high p second, ?_⟩
  · show execSelectFall p t = _
    rw [execSelectFall, high]
    rfl
  · rw [State.beginWindow, State.setPort_port_self, rejected]
    rfl
  · rw [frameErr, rejected]
  · rw [quiet, rejected]
    simp
  · rw [State.rejectFrame, State.setPort_port_self]

/-- Settles O20: after the timeout the window is not open. -/
theorem selectTimeoutReleasesThePort : Obligations.SelectTimeoutReleasesThePort := by
  intro s p hp
  have expired : ((s.rejectFrame p .expired .selectTimeout).port p).window.isOpen = false := by
    rw [State.rejectFrame, State.setPort_port_self]
    rfl
  obtain ⟨sdo, rise, clockRise, clockFall⟩ := State.closed_port expired
  exact ⟨_, exec_selectTimeout hp p, rfl, sdo, clockRise, clockFall, rise⟩

/-- Settles O24: the ignored bytes are not read, and the buffer is empty. -/
theorem fetchEmptiesTheAnswerBuffer : Obligations.FetchEmptiesTheAnswerBuffer := by
  refine ⟨fun p tag ignored => decodeFrame_fetch p tag, fun s p tag hp => ⟨s.acceptFrame p, ?_, rfl, ?_⟩⟩
  · exact station_silent hp (dispatched_acts _ (.inr rfl))
  · rw [(State.statusByte_bits _ p).1, State.acceptFrame, State.setPort_port_self]
    rfl

/-! ## Event flags (R159, R168 to R170) -/

/-- Settles O28: the flags are a port's own, and acceptance touches none. -/
theorem eventFlagsAreReadMaskedAndReset : Obligations.EventFlagsAreReadMaskedAndReset := by
  refine ⟨fun s p => ?_, fun s p tag w hp => ⟨?_, fun hl => ?_, fun hl => ?_⟩⟩
  · rw [State.attnAsserted, Bool.and_eq_true, PortState.attention_iff, Bool.not_eq_true']
  · refine station_changed hp (r := Reply.ok (wordBytes (s.port p).flags)) 
      ((dispatched_acts (s := s.acceptFrame p) _ (.inr rfl)).trans ?_)
    simp [State.readEvents, State.acceptFrame]
  · refine station_changed hp (r := Reply.ok []) ((dispatched_acts (s := s.acceptFrame p) _ (.inl hl)).trans ?_)
    simp [State.acceptFrame]
  · refine station_silent hp ((dispatched_acts (s := s.acceptFrame p) _ (.inl hl)).trans ?_)
    simp [State.portReset, State.acceptFrame]

end Sys2Proof.Machine

namespace Sys2Proof.Machine

/-! ## STATUS (R157, Table 7-7) -/

theorem Intake.code_lt (x : Intake) : x.code < 256 := by cases x <;> decide

theorem FrameError.code_lt (x : FrameError) : x.code < 256 := by
  cases x with
  | rejected kind => cases kind <;> decide
  | _ => decide

/-- A flag of each bin stands in its bit. -/
theorem flagByte_eight (flag : Fin 8 → Bool) (i : Fin 8) : (flagByte (eight.map flag)).getLsbD i.val = flag i := by
  rw [flagByte_getLsbD _ i.isLt]
  fin_cases i <;> rfl

/-- Settles O25: each field stands at its place in the answer. -/
theorem statusReportsThePart : Obligations.StatusReportsThePart := by
  intro s p tag hp
  have payload : (s.acceptFrame p).statusPayload p = s.statusPayload p := by
    simp [State.statusPayload, State.acceptFrame]
  have bit {n : Nat} (hn : n < 8) :=
    flagByte_getLsbD (fourLanes.map (fun k => (s.health.get k).down) ++ [false, false, s.lrstLow, s.settingsValid]) hn
  refine ⟨s.statusPayload p, station_unchanged hp (r := Reply.ok (s.statusPayload p))
      ((dispatched_acts (s := s.acceptFrame p) _ (.inr rfl)).trans ?_), rfl,
    (byteOf_toNat _).trans (Nat.mod_eq_of_lt s.intake.code_lt), byteOf_toNat _, byteOf_toNat _, wordBytes_append _,
    bytes_toNat _, bytes_toNat _, bytes_toNat _, fun k => ?_, bit (n := 4) (by omega), bit (n := 5) (by omega),
    bit (n := 6) (by omega), bit (n := 7) (by omega),
    (byteOf_toNat _).trans (Nat.mod_eq_of_lt (s.port p).lastError.code_lt), byteOf_toNat _,
    flagByte_eight fun b => (s.bins.get b).full⟩
  · rw [unchanged, payload]
  · refine (bit (n := k.val) (by omega)).trans ?_
    fin_cases k <;> rfl

/-! ## READ_SHEET (R158, Table 7-12) -/

/-- READ_SHEET's decision on the entry that it finds (R158). -/
theorem State.readSheet_found {s : State} {sheet : Word} {e : Entry} (found : s.entryOfSheet sheet = some e)
    {selector : Byte} {lane : Fin 4} (hlane : lane.val = selector.toNat / 64) :
    (∀ part : Byte, 3 ≤ part.toNat → s.readSheet sheet part selector = Reply.bare .badArgument) ∧
    s.readSheet sheet 0 selector = Reply.ok e.summary ∧
    s.readSheet sheet 1 selector = Reply.ok ((e.lanes.get lane).defectBytes (selector.toNat % 32)) ∧
    s.readSheet sheet 2 selector = Reply.ok ((e.lanes.get lane).sampleHalf (selector.getLsbD 0)) := by
  have named : (⟨selector.toNat / 64 % 4, Nat.mod_lt _ (by decide)⟩ : Fin 4) = lane := by
    refine Fin.ext ?_
    show selector.toNat / 64 % 4 = lane.val
    omega
  have low : selector.getLsbD 0 = decide (selector.toNat % 2 = 1) := Nat.testBit_zero _
  refine ⟨fun part hpart => ?_, ?_, ?_, ?_⟩
  · unfold State.readSheet
    rw [found]
    dsimp only
    split
    case h_4 => rfl
    all_goals omega
  all_goals
    unfold State.readSheet
    rw [found]
    dsimp only
    rw [named]
  · rfl
  · rfl
  · rw [low]
    rfl

/-- READ_SHEET of a number that no entry carries (R158, log 14). -/
theorem State.readSheet_missing {s : State} {sheet : Word} (h : ∀ e ∈ s.table, e.sheet ≠ sheet) (part selector : Byte) :
    s.readSheet sheet part selector = Reply.bare .noEntry := by
  have none_found : s.entryOfSheet sheet = none := List.find?_eq_none.2 (by simpa using h)
  unfold State.readSheet
  rw [none_found]

theorem EntryState.code_lt (x : EntryState) : x.code < 256 := by cases x <;> simp [EntryState.code]

/-- The summary of an entry in its bytes (Table 7-12). -/
theorem Entry.summary_read (e : Entry) :
    wordAt e.summary 0 = e.sheet ∧ byteAt e.summary 2 = e.tag ∧ (byteAt e.summary 3).toNat = e.state.code ∧
    (byteAt e.summary 4).toNat = e.unscanned % 256 ∧
    (byteAt e.summary 5).toNat = (e.placement.map Fin.val).getD 15 ∧
    (∀ k : Fin 4, (byteAt e.summary (6 + k.val)).toNat =
      ((e.lanes.get k).state.code * 32 + (e.lanes.get k).defects.length) % 256) ∧
    (∀ (k : Fin 4) (z : Fin 8),
      (byteAt e.summary (10 + k.val)).getLsbD z.val = ((e.lanes.get k).samples.get z).isSome) ∧
    e.summary.drop 14 = recordBytes e.result := by
  refine ⟨wordBytes_append _, rfl, (byteOf_toNat _).trans (Nat.mod_eq_of_lt e.state.code_lt), byteOf_toNat _, ?_,
    fun k => ?_, fun k z => ?_, rfl⟩
  · refine (byteOf_toNat _).trans (Nat.mod_eq_of_lt ?_)
    cases e.placement with
    | none => decide
    | some b => exact b.isLt.trans (by decide)
  · have lane : byteAt e.summary (6 + k.val) =
        byteOf ((e.lanes.get k).state.code * 32 + (e.lanes.get k).defects.length) := by fin_cases k <;> rfl
    rw [lane, byteOf_toNat]
  · have lane : byteAt e.summary (10 + k.val) = flagByte (e.lanes.get k).filled := by fin_cases k <;> rfl
    rw [lane, Lane.filled, flagByte_eight]

/-- In a sequence of fields of one length, a byte of a field stands at its place behind the fields before. -/
theorem byteAt_flatMap {α : Type} {field : α → List Byte} {n : Nat} (hn : ∀ a, (field a).length = n) {l : List α} {i : Nat}
    {a : α} (hi : l[i]? = some a) {j : Nat} (hj : j < n) : byteAt (l.flatMap field) (n * i + j) = byteAt (field a) j := by
  induction l generalizing i with
  | nil => cases hi
  | cons b l ih =>
    unfold byteAt at *
    rw [List.flatMap_cons]
    cases i with
    | zero =>
      cases hi
      rw [Nat.mul_zero, Nat.zero_add, List.getD_append _ _ _ _ (by rw [hn]; exact hj)]
    | succ i =>
      rw [List.getD_append_right _ _ _ _ (by rw [hn, Nat.mul_succ]; omega), hn, ← ih hi]
      congr 1
      rw [Nat.mul_succ]
      omega

/-- A filled sample slot in its five bytes (Table 7-12). -/
theorem sampleBytes_some (x : Sample) :
    (wordAt (sampleBytes (some x)) 0).toNat = x.raw % 65536 ∧
    (wordAt (sampleBytes (some x)) 2).toNat = x.thickness % 65536 ∧
    byteAt (sampleBytes (some x)) 4 = BitVec.ofInt 8 x.temp := ⟨bytes_toNat _, bytes_toNat _, rfl⟩

/-- Half of a lane's sample slots: the flags of those filled, and each slot's five bytes (Table 7-12). -/
theorem Lane.sampleHalf_read (l : Lane) {upper : Bool} {i : Fin 4} {z : Fin 8}
    (hz : z.val = i.val + if upper then 4 else 0) :
    (byteAt (l.sampleHalf upper) 0).getLsbD i.val = (l.samples.get z).isSome ∧
    ∀ j, j < 5 → byteAt (l.sampleHalf upper) (1 + 5 * i.val + j) = byteAt (sampleBytes (l.samples.get z)) j := by
  generalize hzones : (if upper then [4, 5, 6, 7] else [0, 1, 2, 3] : List (Fin 8)) = zones
  have zone : zones[i.val]? = some z := by
    rw [← hzones]
    revert hz
    cases upper <;> fin_cases i <;> fin_cases z <;> decide
  have half : l.sampleHalf upper =
      flagByte (zones.map fun z => (l.samples.get z).isSome) :: zones.flatMap fun z => sampleBytes (l.samples.get z) := by
    rw [← hzones]
    rfl
  rw [half]
  constructor
  · refine (flagByte_getLsbD _ (by omega)).trans ?_
    rw [List.getD_eq_getElem?_getD, List.getElem?_map, zone]
    rfl
  · intro j hj
    rw [show 1 + 5 * i.val + j = 5 * i.val + j + 1 by omega]
    exact byteAt_flatMap (fun z => sampleBytes_length _) zone hj

/-- Settles O27: the oldest entry of the number is the one found, and each field stands at its place. -/
theorem readSheetReportsTheEntry : Obligations.ReadSheetReportsTheEntry := by
  intro s p tag sheet part selector h
  have answers {r : Reply} (hr : s.readSheet sheet part selector = r) :
      exec (.readSheet p tag sheet part selector) s = .next (s.replied p tag r.code r.payload) :=
    station_answers h r (congrArg (fun r => (s.acceptFrame p, some r)) hr)
  refine ⟨fun hnone => answers (State.readSheet_missing hnone part selector),
    fun older younger e htable hsheet holder lane hlane => ?_⟩
  have found : s.entryOfSheet sheet = some e := by
    unfold State.entryOfSheet
    rw [htable]
    exact find_split (by simpa using holder) (by simpa using hsheet)
  obtain ⟨other, summary, defects, samples⟩ := State.readSheet_found found hlane
  refine ⟨fun hpart => answers (other part hpart), ?_, ?_, ?_⟩
  · rintro rfl
    obtain ⟨number, etag, state, unscanned, placement, lanes, filled, result⟩ := e.summary_read
    refine ⟨_, answers summary, e.summary_length, number.trans hsheet, etag, state, unscanned, placement.trans ?_, lanes,
      filled, result.trans ?_⟩
    · cases e.placement <;> rfl
    · cases e.result <;> rfl
  · rintro rfl
    exact answers defects
  · rintro rfl
    refine ⟨(e.lanes.get lane).sampleHalf (selector.getLsbD 0), answers samples, Lane.sampleHalf_length _ _, fun i z hz => ?_⟩
    obtain ⟨flag, slot⟩ := (e.lanes.get lane).sampleHalf_read hz
    refine ⟨flag, ?_⟩
    generalize (e.lanes.get lane).sampleHalf (selector.getLsbD 0) = f at slot ⊢
    generalize (e.lanes.get lane).samples.get z = x at slot ⊢
    have raw : wordAt f (1 + 5 * i.val) = wordAt (sampleBytes x) 0 :=
      congrArg₂ (· ++ ·) (slot 0 (by omega)) (slot 1 (by omega))
    have thickness : wordAt f (3 + 5 * i.val) = wordAt (sampleBytes x) 2 := by
      rw [show 3 + 5 * i.val = 1 + 5 * i.val + 2 by omega]
      exact congrArg₂ (· ++ ·) (slot 2 (by omega)) (slot 3 (by omega))
    have temp : byteAt f (5 + 5 * i.val) = byteAt (sampleBytes x) 4 := by
      rw [show 5 + 5 * i.val = 1 + 5 * i.val + 4 by omega]
      exact slot 4 (by omega)
    rw [raw, thickness, temp]
    cases x with
    | none => exact ⟨rfl, rfl, rfl⟩
    | some x => exact sampleBytes_some x

end Sys2Proof.Machine

namespace Sys2Proof.Machine

/-! ## What an owning block leaves alone (R151, R155, logs 1 and 2)

The blocks behind the ports touch a port in its event flags alone, and neither of the model's two lists. -/

/-- The ports are as they were but for their event flags, and the queue and the input list are as they were. -/
structure WithinBlock (s t : State) : Prop where
  ports : SamePortsButFlags s t
  pending : t.pending = s.pending
  inputs : t.inputs = s.inputs

theorem WithinBlock.same {s t : State} (h1 : t.ports = s.ports := by rfl) (h2 : t.pending = s.pending := by rfl)
    (h3 : t.inputs = s.inputs := by rfl) : WithinBlock s t :=
  ⟨fun p => by rw [State.port, State.port, h1], h2, h3⟩

theorem WithinBlock.refl (s : State) : WithinBlock s s := .same

theorem WithinBlock.trans {s t u : State} (h : WithinBlock s t) (k : WithinBlock t u) : WithinBlock s u :=
  ⟨h.ports.trans k.ports, k.pending.trans h.pending, k.inputs.trans h.inputs⟩

/-- `WithinBlock.trans` with the later part first. -/
theorem WithinBlock.after {s t u : State} (k : WithinBlock t u) (h : WithinBlock s t) : WithinBlock s u := h.trans k

theorem WithinBlock.raise (s : State) (e : Event) : WithinBlock s (s.raise e) := ⟨s.raise_same e, by simp, by simp⟩

theorem WithinBlock.raiseIf (s : State) (c : Bool) (e : Event) : WithinBlock s (s.raiseIf c e) :=
  ⟨s.raiseIf_same c e, by simp, by simp⟩

theorem WithinBlock.announce (s t : State) : WithinBlock t (s.announce t) := ⟨s.announce_same t, by simp, by simp⟩

theorem WithinBlock.faultOccurs (s : State) (k : FaultKind) : WithinBlock s (s.faultOccurs k) :=
  ⟨s.faultOccurs_same k, by simp, by simp⟩

theorem WithinBlock.faultEnds (s : State) (k : FaultKind) : WithinBlock s (s.faultEnds k) := by
  rw [State.faultEnds_eq]
  exact .same

theorem WithinBlock.clearFaults (s : State) (clear : Word) : WithinBlock s (s.clearFaults clear) :=
  .same (State.settleFirstFault_ports _) (State.settleFirstFault_pending _) (State.settleFirstFault_inputs _)

theorem WithinBlock.ofSheets {s t : State} (h : SheetsOnly s t) : WithinBlock s t := by
  rw [h]
  exact .same

/-! ### The sheets -/

theorem WithinBlock.syncCheck (s : State) (n : Nat) : WithinBlock s (s.syncCheck n) := by
  unfold State.syncCheck
  split
  · exact .faultOccurs s _
  · exact .refl s

theorem WithinBlock.countMissed (s : State) : WithinBlock s s.countMissed := by
  have ahead : WithinBlock s s.missAhead := .after (.syncCheck _ _) .same
  unfold State.countMissed
  split
  · split
    · exact ahead
    · exact .after (.syncCheck _ _) .same
  · exact ahead

theorem WithinBlock.missSheet (s : State) (tag : Byte) : WithinBlock s (s.missSheet tag) := by
  have counted : WithinBlock s ({ s with missed := satSucc Config.counterMax s.missed }.raise .missed) :=
    .after (.raise _ _) .same
  exact .after (.countMissed _) (counted.trans .same)

theorem WithinBlock.message (s : State) (tag : Byte) (k : Fin 4) (m : LaneMessage) : WithinBlock s (s.message tag k m) := by
  refine .after (.announce _ _) ?_
  unfold State.route
  split
  · split
    · exact .ofSheets (.deliver s _ k m)
    · exact .same
  · split
    · exact .same
    · split
      · exact .refl s
      · split
        · exact .ofSheets (.openEntry s tag k m)
        · exact .missSheet s tag

theorem WithinBlock.laneOutcome (s : State) (k : Fin 4) (st : LaneState) : WithinBlock s (s.laneOutcome k st) := by
  rcases s.laneOutcome_cases k st with ⟨-, h⟩ | ⟨-, h⟩ | ⟨-, h⟩ <;> rw [h]
  · exact .refl s
  · exact .same
  · have counted : WithinBlock s (s.countFailure k) := .after (.raise _ .laneFaulted) .same
    split
    · exact counted.trans (.after (.faultOccurs _ _) (.after (.raise _ .laneDown) .same))
    · exact counted

theorem WithinBlock.laneOutcomes (s : State) (e : Entry) : WithinBlock s (s.laneOutcomes e) := by
  unfold State.laneOutcomes
  generalize fourLanes = l
  induction l generalizing s with
  | nil => exact .refl s
  | cons k l ih => exact (WithinBlock.laneOutcome s k _).trans (ih _)

theorem WithinBlock.complete (s : State) (e : Entry) : WithinBlock s (s.complete e) :=
  .after (.ofSheets (.engineTake _)) (.after (.raiseIf _ _ _) (.after (.laneOutcomes _ _) .same))

theorem WithinBlock.returnLane (s : State) (k : Fin 4) : WithinBlock s (s.returnLane k) := by
  unfold State.returnLane
  dsimp only
  split
  · exact .same
  · exact .after (.faultEnds _ _) .same

/-! ### The orders -/

theorem WithinBlock.admitHead {s t : State} (h : s.admitHead = some t) : WithinBlock s t := by
  obtain ⟨k, o, rest, bs, -, -, -, rfl⟩ := State.admitHead_some h
  exact .after (.raise _ _) .same

theorem WithinBlock.admissions (s : State) : WithinBlock s s.admissions :=
  State.admissions_induct (P := WithinBlock s) (fun _ _ h ht => h.trans (.admitHead ht)) (.refl s)

theorem WithinBlock.growth (s : State) : WithinBlock s s.growth := by
  refine State.growth_induct (P := WithinBlock s) (fun u k h => h.trans ?_) (fun _ _ h ht => h.trans (.admitHead ht)) (.refl s)
  rcases u.retryStalled_cases k with h | ⟨a, bs, -, -, -, h⟩ <;> rw [h]
  · exact .refl u
  · exact .after (.raise _ _) .same

theorem WithinBlock.afterRelease (s : State) (released : List (Fin 8)) : WithinBlock s (s.afterRelease released) := by
  unfold State.afterRelease
  split
  · exact .admissions s
  · exact .growth s

theorem WithinBlock.leaveSlot (s : State) (a : Active) (x : Finish) : WithinBlock s (s.leaveSlot a x) :=
  .after (.raise _ .finished) .same

theorem WithinBlock.abort (s : State) (a : Active) (cause : AbortCause) : WithinBlock s (s.abort a cause) := by
  unfold State.abort
  dsimp only
  split
  · exact .after (.afterRelease _ _) (.after (.leaveSlot _ _ _) .same)
  · exact .after (.afterRelease _ _) .same

theorem WithinBlock.settlement (s : State) (b : Fin 8) : WithinBlock s (s.settlement b) := by
  refine State.settlement_induct (P := WithinBlock s) (fun u k hu => hu.trans ?_) (.refl s)
  unfold State.settleSlot
  split
  · exact .refl u
  · split
    · split
      · exact .leaveSlot u _ _
      · exact .refl u
    all_goals exact .after (.raiseIf _ _ _) (.after (.raiseIf _ _ _) .same)

theorem WithinBlock.emptyBin (s : State) (b : Fin 8) : WithinBlock s (s.emptyBin b) := by
  have settled : WithinBlock s ((s.discardStack b).settlement b) := .after (.settlement _ _) .same
  show WithinBlock s (if ((s.discardStack b).settlement b).active.length < _ then _ else _)
  split
  · exact settled.trans (.admissions _)
  · exact settled

theorem WithinBlock.lineEdge (s : State) (k : Fin 8) : WithinBlock s (s.lineEdge k) := by
  unfold State.lineEdge State.emptyByLine
  dsimp only
  split
  · split
    · exact .same
    · exact .after (.emptyBin _ _) .same
  · exact .same

theorem WithinBlock.lineChange {s : State} (k : Fin 8) (active : Bool) {change : State → State}
    (h : WithinBlock s (change s)) : WithinBlock s (s.lineChange k active change) := by
  rcases s.lineChange_cases k active change with ⟨-, e⟩ | ⟨-, -, e⟩ | ⟨-, -, e⟩ <;> rw [e]
  · exact .same
  · exact h
  · exact .refl s

/-! ### The settings store -/

theorem WithinBlock.endLoad (s : State) (read : LoadRead) : WithinBlock s (s.endLoad read) := by
  refine .after (.announce _ _) (.after (.raise _ _) ?_)
  split
  · exact (WithinBlock.after (.faultEnds _ _) (.same (t := { s.install _ with settingsValid := true }))).trans .same
  · exact (WithinBlock.after (.faultOccurs _ _) (.same (t := { s.install _ with settingsValid := false }))).trans .same

theorem WithinBlock.endStore (s : State) (result : StoreResult) : WithinBlock s (s.endStore result) := by
  refine .after (.raise _ _) ?_
  split
  · exact (WithinBlock.after (.faultEnds _ _) (.same (t := { s with settingsValid := true }))).trans .same
  · exact (WithinBlock.faultOccurs s _).trans .same

end Sys2Proof.Machine

namespace Sys2Proof.Machine

/-! ## The decisions of the owning blocks (R151, R155) -/

/-- A decision that has an answer, and touches no port but in its event flags. -/
structure Decides (u : State) (x : State × Option Reply) : Prop where
  answers : x.2.isSome = true
  within : WithinBlock u x.1

theorem Decides.unchanged (u : State) (r : Reply) : Decides u (unchanged u r) := ⟨rfl, .refl u⟩

theorem Decides.of {u v : State} (h : WithinBlock u v) (r : Reply) : Decides u (v, some r) := ⟨rfl, h⟩

/-- A decision that announces what it changed. -/
theorem Decides.announced {u v : State} (h : WithinBlock u v) (r : Reply) : Decides u (u.announce v, some r) :=
  ⟨rfl, h.trans (.announce u v)⟩

theorem Decides.readBin (u : State) (bin : BitVec 7) (depth : BitVec 9) : Decides u (u.readBin bin depth) := by
  unfold State.readBin
  split
  · split <;> exact .unchanged u _
  · exact .unchanged u _

theorem Decides.start (u : State) : Decides u u.start := by
  unfold State.start
  split
  · exact .unchanged u _
  · split
    · exact .unchanged u _
    · split
      · exact .of .same _
      · exact .unchanged u _

theorem Decides.setSetting (u : State) (key : Word) (value : BitVec 32) : Decides u (u.setSetting key value) := by
  unfold State.setSetting
  split
  · exact .unchanged u _
  · split
    · exact .unchanged u _
    · unfold State.writeSetting
      split
      · exact .unchanged u _
      · split
        · exact .unchanged u _
        · exact .announced .same _

theorem Decides.loadSettings (u : State) : Decides u u.loadSettings := by
  unfold State.loadSettings
  split
  · exact .unchanged u _
  · split
    · exact .unchanged u _
    · exact .of .same _

theorem Decides.storeSettings (u : State) : Decides u u.storeSettings := by
  unfold State.storeSettings
  split
  · exact .unchanged u _
  · exact .of .same _

theorem Decides.binState (u : State) (bin requested : Byte) : Decides u (u.binState bin requested) := by
  have changed (b : Fin 8) (m : BinMode) : Decides u (u.changeBin b m) := .announced (.after (.raise _ _) .same) _
  unfold State.binState
  split
  · split
    · exact .unchanged u _
    · unfold State.decideBin
      dsimp only
      split
      case h_8 | h_9 => split; exacts [changed _ _, .unchanged u _]
      case h_1 | h_3 | h_5 => exact changed _ _
      all_goals exact .unchanged u _
  · exact .unchanged u _

theorem Decides.laneUp (u : State) (lane : Byte) : Decides u (u.laneUp lane) := by
  unfold State.laneUp
  split
  · exact .of (.returnLane u _) _
  · exact .unchanged u _

theorem Decides.outOfOrder (u : State) : Decides u u.outOfOrder := .of (.faultOccurs u _) _

/-- An entry that leaves the table. -/
theorem WithinBlock.leaveTable (u : State) (e : Entry) : WithinBlock u ((u.carryUnscanned e).removeEntry e) :=
  .ofSheets ((SheetsOnly.carry u e).trans (.removeEntry _ e))

theorem WithinBlock.whereNext (u : State) : WithinBlock u u.whereNext.1 := by
  unfold State.whereNext
  split
  · exact .same
  · split
    · exact .refl u
    · split
      · unfold State.whereGraded
        split
        · exact .leaveTable u _
        · split
          · exact .same
          · exact .leaveTable u _
      all_goals exact .refl u

theorem Decides.dropped (u : State) (sheet : Word) : Decides u (u.dropped sheet) := by
  unfold State.dropped
  split
  · exact .outOfOrder u
  · split
    · split
      · exact .announced (.after (.growth _) (.after (.ofSheets (.removeEntry _ _)) .same)) _
      · exact .outOfOrder u
    all_goals exact .outOfOrder u

theorem Decides.divert (u : State) (sheet : Word) : Decides u (u.divert sheet) := by
  have other : Decides u (u.divertOther sheet) := by
    unfold State.divertOther
    split
    · split
      · refine .announced ?_ _
        unfold State.divertUnplaced
        dsimp only
        split
        · exact (WithinBlock.leaveTable u _).trans .same
        · exact .leaveTable u _
      · exact .outOfOrder u
    · exact .outOfOrder u
  unfold State.divert
  split
  · exact other
  · split
    · split
      · exact .announced (.after (.leaveTable _ _) .same) _
      · exact other
    all_goals exact other

theorem Decides.emptied (u : State) (bin : Byte) : Decides u (u.emptied bin) := by
  unfold State.emptied
  split
  · exact .unchanged u _
  · split
    · exact .unchanged u _
    · exact .announced (.emptyBin u _) _

theorem Decides.takeOrder (u : State) (number : Word) (cls count : Byte) (plies : List Byte) :
    Decides u (u.takeOrder number cls count plies) := by
  unfold State.takeOrder
  split
  · exact .unchanged u _
  · split
    · exact .unchanged u _
    · split
      · exact .unchanged u _
      · exact .of (.after (.admissions _) .same) _

theorem Decides.cancel (u : State) (number : Word) : Decides u (u.cancel number) := by
  unfold State.cancel
  split
  · refine .of ?_ _
    have finished : WithinBlock u
        ({ u with queue := u.queue.filter fun o => o.number ≠ number }.reportFinish number (.aborted .cancelled)) :=
      .after (.raise _ .finished) .same
    unfold State.cancelWaiting
    dsimp only
    split
    · exact finished.trans (.admissions _)
    · exact finished
  · split
    · unfold State.cancelActive
      split
      · exact .unchanged u _
      all_goals exact .of (.abort u _ _) _
    · exact .unchanged u _

theorem Decides.nextPly (u : State) (number : Word) : Decides u (u.nextPly number) := by
  unfold State.nextPly
  split
  · exact .unchanged u _
  · split
    · exact .unchanged u _
    all_goals
      unfold State.callNext
      split
      · exact .unchanged u _
      · split
        · exact .unchanged u _
        · split
          · exact .unchanged u _
          · exact .of .same _

theorem Decides.taken (u : State) (number : Word) : Decides u (u.taken number) := by
  have left (a : Active) (b : Fin 8) (x : Finish) : WithinBlock u ((u.takeFrom b).leaveSlot a x).admissions :=
    .after (.admissions _) (.after (.leaveSlot _ _ _) .same)
  unfold State.taken
  split
  · exact .unchanged u _
  · unfold State.takeActive
    split
    · unfold State.takeCalled
      split
      · exact .announced (left _ _ _) _
      all_goals
        refine .announced ?_ _
        unfold State.take
        dsimp only
        split
        · exact left _ _ _
        · exact .same
    · split <;> exact .unchanged u _

theorem Decides.uncall (u : State) (number : Word) : Decides u (u.uncall number) := by
  unfold State.uncall
  split
  · exact .unchanged u _
  · split
    · exact .unchanged u _
    · unfold State.uncallActive
      split
      · exact .of (.after (.afterRelease _ _) (.after (.leaveSlot _ _ _) .same)) _
      all_goals exact .of .same _

/-! ## A decision at the port that took the frame -/

/-- What a decision does to the port that took its frame, and, where it is the only one concerned, to the others. -/
structure AtPort (alone : Prop) (p : Port) (u : State) (x : State × Option Reply) : Prop where
  window : (x.1.port p).window = (u.port p).window
  frameErr : (x.1.port p).frameErr = true → (u.port p).frameErr = true
  empty : x.2 = none → (u.port p).answer = none → (x.1.port p).answer = none
  others : alone → ∀ q, q ≠ p → x.1.port q = { u.port q with flags := (x.1.port q).flags }
  pending : x.1.pending = u.pending
  inputs : x.1.inputs = u.inputs

theorem WithinBlock.atPort {u : State} {x : State × Option Reply} (h : WithinBlock u x.1) (alone : Prop) (p : Port) :
    AtPort alone p u x where
  window := by rw [h.ports p]
  frameErr := by rw [h.ports p]; exact id
  empty := by rw [h.ports p]; exact fun _ => id
  others _ q _ := h.ports q
  pending := h.pending
  inputs := h.inputs

/-- A decision that moves its own port alone. -/
theorem AtPort.setPort (alone : Prop) (p : Port) (u : State) {y : PortState} {r : Option Reply}
    (window : y.window = (u.port p).window) (frameErr : y.frameErr = true → (u.port p).frameErr = true)
    (answer : (u.port p).answer = none → y.answer = none) : AtPort alone p u (u.setPort p y, r) where
  window := by rw [State.setPort_port_self, window]
  frameErr := by rw [State.setPort_port_self]; exact frameErr
  empty := by rw [State.setPort_port_self]; exact fun _ => answer
  others _ q hq := by rw [State.setPort_port_ne u y hq]
  pending := rfl
  inputs := rfl

/-- A line reset goes on with the window, and empties the buffer of every port (R160). -/
theorem AtPort.lineReset (p : Port) (u : State) (r : Option Reply) : AtPort False p u (u.lineReset, r) := by
  have port : u.lineReset.port p = (u.port p).lineReset := PerPort.get_of _ p
  refine ⟨?_, ?_, ?_, False.elim, rfl, rfl⟩
  · rw [port]
    rfl
  · rw [port]
    nofun
  · rw [port]
    exact fun _ _ => rfl

/-- The port may give the command (Table 7-8). -/
def mayGive (c : Instr) (p : Port) : Bool := (ownPort c).all fun q => p = q

/-- What the decision of a station command does: it answers, but for FETCH and PORT_RESET, and concerns its port alone,
but for RESET_LINE. -/
structure StationDecision (c : Instr) (p : Port) (tag : Byte) (u : State) (x : State × Option Reply) : Prop where
  atPort : AtPort (c ≠ .resetLine p tag) p u x
  silent : x.2 = none ↔ c = .fetch p tag ∨ c = .portReset p tag

theorem Decides.station {c : Instr} {p : Port} {tag : Byte} {u : State} {x : State × Option Reply} (h : Decides u x)
    (hc : ¬ (c = .fetch p tag ∨ c = .portReset p tag)) : StationDecision c p tag u x := by
  refine ⟨h.within.atPort _ p, fun hx => ?_, fun h => absurd h hc⟩
  have answers := h.answers
  rw [hx] at answers
  cases answers

/-- Every station command is a frame that its port's right, LRST_N and its block's decision settle (R153). -/
theorem exec_station {c : Instr} {p : Port} {tag : Byte} (h : stationFrame c = some (p, tag)) :
    ∃ body, (∀ s, exec c s = station p tag (mayGive c p) (actsInLineReset c) body s) ∧
      ∀ u, StationDecision c p tag u (body u) := by
  cases c
  case fetch => cases h; exact ⟨_, fun _ => rfl, fun u => ⟨(WithinBlock.refl u).atPort _ _, by simp⟩⟩
  case portReset =>
    cases h
    exact ⟨_, fun _ => rfl, fun u => ⟨.setPort _ p u rfl (by simp) fun _ => rfl, by simp⟩⟩
  case setAttnMask =>
    cases h
    exact ⟨_, fun _ => rfl, fun u => ⟨.setPort _ p u rfl id id, by simp⟩⟩
  case resetLine =>
    cases h
    exact ⟨_, fun _ => rfl, fun u => ⟨by simpa using AtPort.lineReset p u (some (Reply.ok [])), by simp⟩⟩
  case readEvents =>
    cases h
    exact ⟨_, fun _ => rfl, fun u => ⟨.setPort _ p u rfl id id, by simp [State.readEvents]⟩⟩
  case status => cases h; exact ⟨_, fun _ => rfl, fun u => (Decides.unchanged u _).station (by simp)⟩
  case readBin => cases h; exact ⟨_, fun _ => rfl, fun u => (Decides.readBin u _ _).station (by simp)⟩
  case readSheet => cases h; exact ⟨_, fun _ => rfl, fun u => (Decides.unchanged u _).station (by simp)⟩
  case start => cases h; exact ⟨_, fun _ => rfl, fun u => (Decides.start u).station (by simp)⟩
  case stop => cases h; exact ⟨_, fun _ => rfl, fun u => (Decides.of .same _).station (by simp)⟩
  case setSetting => cases h; exact ⟨_, fun _ => rfl, fun u => (Decides.setSetting u _ _).station (by simp)⟩
  case getSetting => cases h; exact ⟨_, fun _ => rfl, fun u => (Decides.unchanged u _).station (by simp)⟩
  case loadSettings => cases h; exact ⟨_, fun _ => rfl, fun u => (Decides.loadSettings u).station (by simp)⟩
  case storeSettings => cases h; exact ⟨_, fun _ => rfl, fun u => (Decides.storeSettings u).station (by simp)⟩
  case binState => cases h; exact ⟨_, fun _ => rfl, fun u => (Decides.binState u _ _).station (by simp)⟩
  case laneUp => cases h; exact ⟨_, fun _ => rfl, fun u => (Decides.laneUp u _).station (by simp)⟩
  case readFaults => cases h; exact ⟨_, fun _ => rfl, fun u => (Decides.of (.clearFaults u _) _).station (by simp)⟩
  case readLines => cases h; exact ⟨_, fun _ => rfl, fun u => (Decides.of .same _).station (by simp)⟩
  case whereTo => cases h; exact ⟨_, fun _ => rfl, fun u => (Decides.announced (.whereNext u) _).station (by simp)⟩
  case dropped => cases h; exact ⟨_, fun _ => rfl, fun u => (Decides.dropped u _).station (by simp)⟩
  case divert => cases h; exact ⟨_, fun _ => rfl, fun u => (Decides.divert u _).station (by simp)⟩
  case emptied => cases h; exact ⟨_, fun _ => rfl, fun u => (Decides.emptied u _).station (by simp)⟩
  case order => cases h; exact ⟨_, fun _ => rfl, fun u => (Decides.takeOrder u _ _ _ _).station (by simp)⟩
  case cancel => cases h; exact ⟨_, fun _ => rfl, fun u => (Decides.cancel u _).station (by simp)⟩
  case nextPly => cases h; exact ⟨_, fun _ => rfl, fun u => (Decides.nextPly u _).station (by simp)⟩
  case taken => cases h; exact ⟨_, fun _ => rfl, fun u => (Decides.taken u _).station (by simp)⟩
  case uncall => cases h; exact ⟨_, fun _ => rfl, fun u => (Decides.uncall u _).station (by simp)⟩
  case orderStatus => cases h; exact ⟨_, fun _ => rfl, fun u => (Decides.unchanged u _).station (by simp)⟩
  all_goals cases h

end Sys2Proof.Machine

namespace Sys2Proof.Machine

/-! ## The tests before a station command acts (R153, cases 2 and 3) -/

theorem mayGive_of_own {c : Instr} {p : Port} (h : ∀ q, ownPort c = some q → q = p) : mayGive c p = true := by
  rw [mayGive, Option.all_eq_true]
  exact fun q hq => decide_eq_true (h q hq).symm

theorem mayGive_of_other {c : Instr} {p q : Port} (h : ownPort c = some q) (hq : q ≠ p) : mayGive c p = false := by
  simpa [mayGive, h] using hq.symm

/-- A port that may not give the command is refused, whatever LRST_N. -/
theorem dispatched_noRight (acts : Bool) (body : State → State × Option Reply) (u : State) :
    dispatched false acts body u = (u, some (Reply.bare .noRight)) := rfl

/-- While LRST_N is low a command that does not act then is refused. -/
theorem dispatched_retry (body : State → State × Option Reply) {u : State} (h : u.lrstLow = true) :
    dispatched true false body u = (u, some (Reply.bare .retry)) := by
  simp [dispatched, h]

/-- Settles O21: the unknown code is answered by its command, the other two refusals leave the accepted state as it is. -/
theorem framesAreTestedInOrder : Obligations.FramesAreTestedInOrder := by
  refine ⟨fun s p code tag hp => ?_, fun s c p tag hp hc => ?_⟩
  · show execUnknownCommand p code tag s = _
    rw [execUnknownCommand, powered_next hp, State.acceptFrame_placeAnswer]
    cases tag <;> rfl
  · obtain ⟨body, hexec, -⟩ := exec_station hc
    refine ⟨fun ⟨q, hown, hq⟩ => ?_, fun hright hl hacts => ?_⟩
    · rw [hexec, mayGive_of_other hown hq]
      exact station_unchanged hp (dispatched_noRight _ body _)
    · rw [hexec, mayGive_of_own hright, hacts]
      exact station_unchanged hp (dispatched_retry body hl)

/-! ## What a station frame does to its port and to the others -/

/-- A dispatched command concerns its port as its decision does, and only FETCH and an acting PORT_RESET are silent. -/
theorem StationDecision.dispatched {c : Instr} {p : Port} {tag : Byte} {u : State} {body : State → State × Option Reply}
    (h : StationDecision c p tag u (body u)) :
    AtPort (c ≠ .resetLine p tag) p u (dispatched (mayGive c p) (actsInLineReset c) body u) ∧
      ((dispatched (mayGive c p) (actsInLineReset c) body u).2 = none ↔
        c = .fetch p tag ∨ (c = .portReset p tag ∧ u.lrstLow = false)) := by
  cases hright : mayGive c p with
  | false =>
    refine ⟨(WithinBlock.refl u).atPort _ p, iff_of_false nofun ?_⟩
    rintro (rfl | ⟨rfl, -⟩) <;> cases hright
  | true =>
    by_cases hacts : u.lrstLow = false ∨ actsInLineReset c = true
    · rw [dispatched_acts body hacts]
      refine ⟨h.atPort, h.silent.trans (or_congr_right (iff_self_and.mpr ?_))⟩
      rintro rfl
      exact hacts.resolve_right nofun
    · obtain ⟨hl, ha⟩ : u.lrstLow = true ∧ actsInLineReset c = false := by simpa using hacts
      rw [ha, dispatched_retry body hl]
      refine ⟨(WithinBlock.refl u).atPort _ p, iff_of_false nofun ?_⟩
      rintro (rfl | ⟨-, hl'⟩)
      · cases ha
      · rw [hl] at hl'
        cases hl'

theorem State.answered_port_ne {p q : Port} (h : q ≠ p) (tag : Byte) (x : State × Option Reply) :
    (State.answered p tag x).port q = x.1.port q := by
  unfold State.answered
  split
  · exact State.setPort_port_ne _ _ h
  · rfl

theorem State.answered_lists (p : Port) (tag : Byte) (x : State × Option Reply) :
    (State.answered p tag x).pending = x.1.pending ∧ (State.answered p tag x).inputs = x.1.inputs := by
  unfold State.answered
  split <;> simp

theorem State.answered_window (p : Port) (tag : Byte) (x : State × Option Reply) :
    ((State.answered p tag x).port p).window = (x.1.port p).window ∧
      ((State.answered p tag x).port p).frameErr = (x.1.port p).frameErr := by
  unfold State.answered
  split <;> simp [State.placeAnswer]

/-- The answer placed echoes the frame's tag. -/
theorem State.answered_some {x : State × Option Reply} {r : Reply} (h : x.2 = some r) (p : Port) (tag : Byte) :
    ((State.answered p tag x).port p).answer = some { tag := tag, code := r.code, payload := r.payload } := by
  simp [State.answered, h, State.placeAnswer]

theorem State.answered_none {x : State × Option Reply} (h : x.2 = none) (p : Port) (tag : Byte) :
    State.answered p tag x = x.1 := by
  simp [State.answered, h]

/-- The accepted port: its window has ended, FRAME_ERR is clear and its buffer is empty (R151). -/
@[simp] theorem State.acceptFrame_port_self (s : State) (p : Port) :
    (s.acceptFrame p).port p = { s.port p with window := .idle, frameErr := false, answer := none } :=
  State.setPort_port_self s p _

theorem State.acceptFrame_port_ne (s : State) {p q : Port} (h : q ≠ p) : (s.acceptFrame p).port q = s.port q :=
  State.setPort_port_ne s _ h

/-- Settles O22, from what acceptance, the decision and the answer each do to the ports. -/
theorem stationFramesAreAnsweredOnTheirPort : Obligations.StationFramesAreAnsweredOnTheirPort := by
  intro s c p tag hp hc
  obtain ⟨body, hexec, decision⟩ := exec_station hc
  obtain ⟨at_port, silent⟩ := (decision (s.acceptFrame p)).dispatched
  generalize hx : dispatched (mayGive c p) (actsInLineReset c) body (s.acceptFrame p) = x at at_port silent
  obtain ⟨window, frameErr⟩ := State.answered_window p tag x
  have buffer : ((State.answered p tag x).port p).answer = none ∧ x.2 = none ∨
      ∃ a, ((State.answered p tag x).port p).answer = some a ∧ a.tag = tag ∧ x.2 ≠ none := by
    cases hr : x.2 with
    | none => exact .inl ⟨by rw [State.answered_none hr, at_port.empty hr (by simp)], rfl⟩
    | some r => exact .inr ⟨_, State.answered_some hr p tag, rfl, nofun⟩
  refine ⟨State.answered p tag x, by rw [hexec, station_next hp, hx], ?_, ?_, ?_, ?_, fun hreset q hq => ?_⟩
  · rw [window, at_port.window, State.acceptFrame_port_self]
  · rw [frameErr, Bool.eq_false_iff]
    exact fun h => by simpa using at_port.frameErr h
  · exact buffer.imp And.left fun ⟨a, ha, htag, _⟩ => ⟨a, ha, htag⟩
  · refine Iff.trans ?_ silent
    rcases buffer with ⟨ha, hn⟩ | ⟨a, ha, -, hn⟩
    · exact iff_of_true ha hn
    · exact iff_of_false (by simp [ha]) hn
  · rw [State.answered_port_ne hq, ← State.acceptFrame_port_ne s hq]
    exact at_port.others hreset q hq

/-! ## Every command completes (R151, R153) -/

/-- The command completes, and the queue and the input list are as they were. -/
def Completes (s : State) (o : Host.Outcome State Fault Refusal) : Prop :=
  ∃ t, o = .next t ∧ t.pending = s.pending ∧ t.inputs = s.inputs

theorem Completes.next {s t : State} (h : t.pending = s.pending := by rfl) (k : t.inputs = s.inputs := by rfl) :
    Completes s (.next t) := ⟨t, rfl, h, k⟩

/-- An event has no effect while PORST_N is low, and otherwise does what its block does. -/
theorem Completes.powered {s : State} {f : State → State} (h : (f s).pending = s.pending := by rfl)
    (k : (f s).inputs = s.inputs := by rfl) : Completes s (powered s f) := by
  cases hp : s.porstLow with
  | true => rw [powered_held hp]; exact .next
  | false => rw [powered_next hp]; exact .next h k

theorem WithinBlock.completes {s : State} {f : State → State} (h : WithinBlock s (f s)) : Completes s (powered s f) :=
  .powered h.pending h.inputs

theorem Completes.station {c : Instr} {p : Port} {tag : Byte} (hc : stationFrame c = some (p, tag)) (s : State) :
    Completes s (exec c s) := by
  obtain ⟨body, hexec, decision⟩ := exec_station hc
  rw [hexec]
  cases hp : s.porstLow with
  | true => rw [station_held hp]; exact .next
  | false =>
    have at_port := (decision (s.acceptFrame p)).dispatched.1
    obtain ⟨pending, inputs⟩ := State.answered_lists p tag
      (dispatched (mayGive c p) (actsInLineReset c) body (s.acceptFrame p))
    rw [station_next hp]
    exact .next (pending.trans at_port.pending) (inputs.trans at_port.inputs)

/-- Settles O2, by the kinds of command: station frames, events of an owning block, and the pins of the part. -/
theorem everyCommandCompletes : Obligations.EveryCommandCompletes := by
  intro c s
  show Completes s (exec c s)
  rcases hc : stationFrame c with _ | ⟨p, tag⟩
  case some => exact .station hc s
  cases c
  case defect lane tag zone type size =>
    show Completes s (execDefect lane tag zone type size s)
    exact WithinBlock.completes (.message s _ _ _)
  case sample lane tag zone raw thickness temp =>
    show Completes s (execSample lane tag zone raw thickness temp s)
    exact WithinBlock.completes (.message s _ _ _)
  case laneDone lane tag status =>
    show Completes s (execLaneDone lane tag status s)
    exact WithinBlock.completes (.message s _ _ _)
  case badMessage =>
    show Completes s (execBadMessage s)
    exact WithinBlock.completes (.after (.raise _ _) .same)
  case scanWindowExpiry tag =>
    show Completes s (execScanWindowExpiry tag s)
    refine WithinBlock.completes ?_
    split
    · split
      · exact .ofSheets (.becomeReady _ _)
      · exact .refl s
    · exact .refl s
  case gradingComplete =>
    show Completes s (execGradingComplete s)
    refine WithinBlock.completes ?_
    split
    · exact .complete s _
    · exact .refl s
  case holdTimerExpiry slot =>
    show Completes s (execHoldTimerExpiry slot s)
    refine WithinBlock.completes ?_
    split
    · exact .refl s
    · split
      · exact .refl s
      all_goals
        split
        · exact .abort s _ _
        · exact .refl s
  case lineEdge k =>
    show Completes s (execLineEdge k s)
    exact WithinBlock.completes (.lineChange k true (.after (.announce _ _) (.lineEdge s k)))
  case debouncedLevelInactive k =>
    show Completes s (execDebouncedLevelInactive k s)
    exact WithinBlock.completes (.lineChange k false .same)
  case frameRejected p kind =>
    show Completes s (execFrameRejected p kind s)
    exact .powered
  case selectTimeout p =>
    show Completes s (execSelectTimeout p s)
    exact .powered
  case unknownCommand p code tag =>
    show Completes s (execUnknownCommand p code tag s)
    exact .powered
  case selectFall =>
    show Completes s (.next (if _ then _ else _))
    split <;> exact .next
  case lineReset =>
    show Completes s (.next (if _ then _ else _))
    split <;> exact .next
  case powerOnReset => exact .next
  case powerOnLoad =>
    show Completes s (.next (if _ then _ else _))
    split
    · unfold State.powerUp
      dsimp only
      split <;> exact .next
    · exact .next
  case loadEnd read =>
    show Completes s (execLoadEnd read s)
    refine WithinBlock.completes ?_
    split
    · exact .endLoad s read
    · exact .refl s
  case storeEnd result =>
    show Completes s (execStoreEnd result s)
    refine WithinBlock.completes ?_
    split
    · exact .endStore s result
    · exact .refl s
  all_goals cases hc

end Sys2Proof.Machine

namespace Sys2Proof.Machine

/-! ## The EEPROM bus (R166, R192, R195) -/

/-- The four bytes that begin the sequential read. -/
theorem readHead_eq : readHead = [0xA0, 0x00, 0x00, 0xA1] := by decide

/-- The four bytes that write one byte of the image. -/
theorem writeFrame_eq (address : Nat) (data : Byte) :
    writeFrame address data = [0xA0, BitVec.ofNat 8 (address / 256), BitVec.ofNat 8 address, data] := rfl

theorem State.nack_loading {s : State} (h : s.op = .loading) :
    s.nack = { s with bus := .idle, pending := s.pending ++ [.loadEnd .noAck] } := by
  simp [State.nack, h, State.endTransfer, State.enqueue]

theorem State.nack_storing {s : State} (h : s.op = .storing) :
    s.nack = { s with bus := .idle, pending := s.pending ++ [.storeEnd .noAck] } := by
  simp [State.nack, h, State.endTransfer, State.enqueue]

theorem State.imageRead_loading {s : State} (h : s.op = .loading) (bytes : List Byte) :
    s.imageRead bytes = { s with bus := .idle, pending := s.pending ++ [.loadEnd (.image bytes)] } := by
  simp [State.imageRead, h, State.endTransfer, State.enqueue]

theorem State.imageRead_storing {s : State} (h : s.op = .storing) (bytes : List Byte) :
    s.imageRead bytes = { s with bus := .idle, pending := s.pending ++ [.storeEnd (.readBack bytes)] } := by
  simp [State.imageRead, h, State.endTransfer, State.enqueue]

/-- While the read's four bytes go out, the part sends them, and an acknowledge takes the next one. -/
theorem State.bus_readHead {s : State} {sent : Nat} {bytes : List Byte} (h : s.bus = .reading sent bytes) (hs : sent < 4) :
    s.busNext = (([0xA0, 0x00, 0x00, 0xA1] : List Byte)[sent]?).map .send ∧
      s.busAck true = { s with bus := .reading (sent + 1) bytes } ∧ s.busAck false = s.nack := by
  have head : readHead.length = 4 := rfl
  refine ⟨?_, by simp [State.busAck, h, head, hs], by simp [State.busAck, h, head, hs]⟩
  rw [State.busNext, h, ← readHead_eq, Bus.next, List.getElem?_eq_getElem (by rw [head]; exact hs)]
  rfl

/-- Another byte is to come before the last of the image. -/
theorem imageBytes_more {n : Nat} : n + 1 < Config.imageBytes ↔ n < 214 := Nat.add_lt_add_iff_right (k := 1) (m := 214)

/-- Behind them it reads the image, and acknowledges every byte but the last. -/
theorem State.bus_read {s : State} {sent : Nat} {bytes : List Byte} (h : s.bus = .reading sent bytes) (hs : 4 ≤ sent) :
    s.busNext = some (.receive (decide (bytes.length < 214))) ∧
      ∀ b, s.busData b = if bytes.length < 214 then { s with bus := .reading sent (bytes ++ [b]) }
        else s.imageRead (bytes ++ [b]) := by
  have head : readHead.length = 4 := rfl
  refine ⟨?_, fun b => by simp [State.busData, h, head, Nat.not_lt.2 hs, imageBytes_more]⟩
  rw [State.busNext, h, Bus.next, List.getElem?_eq_none (by rw [head]; exact hs)]
  simp [imageBytes_more]

/-- The four bytes that write an image byte go out, and the wait for the acknowledge follows them. -/
theorem State.bus_write {s : State} {index sent : Nat} (h : s.bus = .writing index sent) (hs : sent < 4) :
    s.busNext = (([0xA0, BitVec.ofNat 8 (index / 256), BitVec.ofNat 8 index, s.ram.image.getD index 0]
        : List Byte)[sent]?).map .send ∧
      s.busAck true = { s with bus := if sent = 3 then .waiting index 0 else .writing index (sent + 1) } ∧
      s.busAck false = s.nack := by
  refine ⟨by rw [State.busNext, h]; rfl, ?_, by simp [State.busAck, h]⟩
  by_cases last : sent = 3
  · simp [State.busAck, h, last]
  · simp [State.busAck, h, last, show sent < 3 by omega]

/-- The wait sends the device's address again and again, and its acknowledge leads to the next byte or the read-back. -/
theorem State.bus_wait {s : State} {index waited : Nat} (h : s.bus = .waiting index waited) :
    s.busNext = some (.send 0xA0) ∧
      s.busAck true = { s with bus := if index < 214 then .writing (index + 1) 0 else .reading 0 [] } ∧
      s.busAck false = s := by
  refine ⟨by rw [State.busNext, h]; rfl, ?_, by simp [State.busAck, h]⟩
  simp only [State.busAck, h, Bus.afterWait, imageBytes_more, if_true]

/-! ## The settings image (R166, R192) -/

theorem wordAt_toNat (f : List Byte) (k : Nat) : (wordAt f k).toNat = (byteAt f k).toNat * 256 + (byteAt f (k + 1)).toNat := by
  rw [wordAt, BitVec.toNat_append, ← Nat.shiftLeft_add_eq_or_of_lt (byteAt f (k + 1)).isLt, Nat.shiftLeft_eq]

/-- The numbers of a sequence of byte pairs stand two bytes apart. -/
theorem wordsOf_getElem? (l : List Byte) (i : Nat) (h : 2 * i + 1 < l.length) :
    (wordsOf l)[i]? = some (wordAt l (2 * i)).toNat := by
  induction l using wordsOf.induct generalizing i with
  | case1 hi lo rest ih =>
    cases i with
    | zero => rw [wordAt_toNat]; rfl
    | succ i =>
      have hr : 2 * i + 1 < rest.length := by
        simp only [List.length_cons] at h
        omega
      rw [wordsOf, List.getElem?_cons_succ, ih i hr, wordAt_toNat, wordAt_toNat]
      rfl
  | case2 l short =>
    match l, h with
    | [_], h => simp at h
    | hi :: lo :: rest, _ => exact absurd rfl (short hi lo rest)

theorem wordsOf_length (l : List Byte) : (wordsOf l).length = l.length / 2 := by
  induction l using wordsOf.induct with
  | case1 hi lo rest ih =>
    rw [wordsOf, List.length_cons, ih, List.length_cons, List.length_cons]
    omega
  | case2 l short =>
    match l with
    | [] => rfl
    | [_] => simp [wordsOf]
    | hi :: lo :: rest => exact absurd rfl (short hi lo rest)

/-- A code that is read back names what it stands for. -/
theorem injective_of_ofCode {α : Type} {code : α → Nat} {ofCode : Nat → Option α} (h : ∀ x, ofCode (code x) = some x) :
    Function.Injective code := fun x y e => Option.some.inj (by rw [← h x, e, h y])

theorem Grade.ofCode_code (g : Grade) : Grade.ofCode g.code = some g := by cases g <;> rfl

theorem Policy.code_injective : Function.Injective Policy.code := by
  intro x y h
  cases x <;> cases y <;> simp [Policy.code] at h ⊢

theorem LineFunction.ofCode_code (f : LineFunction) : LineFunction.ofCode f.code = some f := by
  cases f with
  | outBinFull b | inBinEmptied b => revert b; decide
  | _ => rfl

theorem BinClass.ofCode_code (k : BinClass) : BinClass.ofCode k.code = some k := by
  cases k with
  | grade g => cases g <;> rfl
  | _ => rfl

/-- Settings are known by the value of each. -/
theorem Settings.ext_get {r q : Settings} (h : ∀ x, r.get x = q.get x) : r = q := by
  have bit : Function.Injective Bool.toNat := Function.LeftInverse.injective Bool.ofNat_toNat
  have grade := injective_of_ofCode Grade.ofCode_code
  have line := injective_of_ofCode LineFunction.ofCode_code
  have bin := injective_of_ofCode BinClass.ofCode_code
  cases r
  cases q
  rw [Settings.mk.injEq]
  exact ⟨PerType.ext_get fun t => h (.defectBase t), PerType.ext_get fun t => h (.defectSlope t),
    PerType.ext_get fun t => h (.defectFloor t), PerGrade.ext_get fun g => h (.limitZone g),
    PerGrade.ext_get fun g => h (.limitTotal g), PerGrade.ext_get fun g => h (.limitOpen g),
    PerGrade.ext_get fun g => h (.limitThick g), h .nominalThick, h .meanLimit, h .wetspotLimit,
    grade (h .patchTarget), h .patchMaxOpen, h .patchSplitMax,
    Policy.code_injective (h .missingLanePolicy), grade (h .partialCap), h .maxMissing, h .scanWindow,
    Quad.ext_get fun k => h (.laneZero k), Quad.ext_get fun k => h (.laneSpan k),
    Quad.ext_get fun k => h (.laneTempco k), h .holdThreshold, h .orderHoldTime, h .laneDownCount,
    bit (h .degradeA), bit (h .degradeB), bit (h .degradeC),
    h .faultMask, Oct.ext_get fun k => line (h (.lineFunction k)), Oct.ext_get fun k => bit (h (.lineInvert k)),
    Oct.ext_get fun k => bin (h (.binClass k)), Oct.ext_get fun k => h (.binCapacity k), Oct.ext_get fun k => h (.binMargin k)⟩

/-- Every value of a setting's range or code set is a number of two bytes (R166). -/
theorem Setting.domain_lt (x : Setting) {v : Nat} (h : x.domain.holds v = true) : v < 65536 := by
  cases x with
  | patchTarget | partialCap | missingLanePolicy | degradeA | degradeB | degradeC | lineInvert | binClass =>
    simp only [Setting.domain, Domain.holds, List.contains_iff_mem, List.mem_cons, List.not_mem_nil, or_false] at h
    omega
  | lineFunction k =>
    simp only [Setting.domain, Domain.holds, eight, List.map_cons, List.map_nil, List.cons_append, List.nil_append,
      List.contains_iff_mem, List.mem_cons, List.not_mem_nil, or_false] at h
    rcases h with rfl | rfl | rfl | rfl | rfl | rfl | rfl | rfl | rfl | rfl | rfl | rfl | rfl | rfl | rfl | rfl | rfl |
      rfl | rfl | rfl | rfl <;> decide
  | _ =>
    simp only [Setting.domain, Domain.holds, Bool.and_eq_true, decide_eq_true_eq] at h
    omega

theorem allSettings_nodup : allSettings.Nodup :=
  List.Nodup.of_map _ (allSettings_keys.imp fun h => Nat.ne_of_lt h)

theorem allSettings_length : allSettings.length = 106 := rfl

end Sys2Proof.Machine

namespace Sys2Proof.Machine

/-! ## What a load reads from an image (R192) -/

theorem Settings.get_foldl_set_ne {l : List (Setting × Nat)} {x : Setting} (h : ∀ p ∈ l, x ≠ p.1) (r : Settings) :
    (l.foldl (fun r p => r.set p.1 p.2) r).get x = r.get x := by
  induction l generalizing r with
  | nil => rfl
  | cons p l ih =>
    rw [List.foldl_cons, ih (fun q hq => h q (List.mem_cons_of_mem _ hq)), Settings.get_set_ne _ _ (h p List.mem_cons_self)]

/-- Values written one after another, each to a setting of its own, are all read back. -/
theorem Settings.get_foldl_set {l : List (Setting × Nat)} (own : (l.map Prod.fst).Nodup)
    (holds : ∀ p ∈ l, p.1.domain.holds p.2 = true) {x : Setting} {v : Nat} (h : (x, v) ∈ l) (r : Settings) :
    (l.foldl (fun r p => r.set p.1 p.2) r).get x = v := by
  induction l generalizing r with
  | nil => cases h
  | cons p l ih =>
    obtain ⟨fresh, own⟩ := List.nodup_cons.1 own
    rw [List.foldl_cons]
    rcases List.mem_cons.1 h with rfl | h
    · have others : ∀ q ∈ l, x ≠ q.1 := fun q hq e => fresh (List.mem_map.2 ⟨q, hq, e.symm⟩)
      rw [Settings.get_foldl_set_ne others, Settings.get_set_self r (holds _ List.mem_cons_self)]
    · exact ih own (fun q hq => holds q (List.mem_cons_of_mem _ hq)) h _

/-- The image holds these settings: the format byte, the check, and each value in its range or code set (R166, R192). -/
def ImageHolds (bytes : List Byte) (r : Settings) : Prop :=
  byteAt bytes 0 = 0x01 ∧
    (wordAt bytes 213).toNat = (((bytes.drop 1).take 212).map BitVec.toNat).sum % 65536 ∧
    ∀ i x, allSettings[i]? = some x → x.domain.holds (wordAt bytes (1 + 2 * i)).toNat = true ∧
      r.get x = (wordAt bytes (1 + 2 * i)).toNat

theorem byteAt_drop (l : List Byte) (n k : Nat) : byteAt (l.drop n) k = byteAt l (n + k) := by
  simp [byteAt, List.getD_eq_getElem?_getD]

theorem byteAt_take (l : List Byte) {n k : Nat} (h : k < n) : byteAt (l.take n) k = byteAt l k := by
  simp [byteAt, List.getD_eq_getElem?_getD, List.getElem?_take_of_lt h]

theorem wordAt_drop (l : List Byte) (n k : Nat) : wordAt (l.drop n) k = wordAt l (n + k) := by
  rw [wordAt, byteAt_drop, byteAt_drop, wordAt, Nat.add_assoc]

theorem wordAt_imageBody (bytes : List Byte) {i : Nat} (h : i < 106) :
    wordAt ((bytes.drop 1).take 212) (2 * i) = wordAt bytes (1 + 2 * i) := by
  rw [← wordAt_drop, wordAt, wordAt, byteAt_take _ (by omega), byteAt_take _ (by omega)]

/-- The values that an image of 215 bytes carries, setting by setting. -/
theorem mem_imageValues {bytes : List Byte} (hlen : bytes.length = 215) (x : Setting) (v : Nat) :
    (x, v) ∈ allSettings.zip (wordsOf ((bytes.drop 1).take 212)) ↔
      ∃ i, allSettings[i]? = some x ∧ (wordAt bytes (1 + 2 * i)).toNat = v := by
  have word {i : Nat} (hi : i < 106) :
      (wordsOf ((bytes.drop 1).take 212))[i]? = some (wordAt bytes (1 + 2 * i)).toNat := by
    rw [wordsOf_getElem? _ _ (by simp only [List.length_take, List.length_drop, hlen]; omega), wordAt_imageBody bytes hi]
  have listed {i : Nat} (hi : allSettings[i]? = some x) : i < 106 := (List.getElem?_eq_some_iff.1 hi).1
  simp only [List.mem_iff_getElem?, List.getElem?_zip_eq_some]
  refine exists_congr fun i => and_congr_right fun hi => ?_
  rw [word (listed hi), Option.some.injEq]

/-- A load takes an image exactly for the settings that it holds. -/
theorem settingsOfImage_iff {bytes : List Byte} (hlen : bytes.length = 215) (r : Settings) :
    settingsOfImage bytes = some r ↔ ImageHolds bytes r := by
  have format : bytes.head? = some Config.imageFormat ↔ byteAt bytes 0 = 0x01 := by
    cases bytes with
    | nil => cases hlen
    | cons b rest => exact Option.some_inj
  have sum : wordsOf (bytes.drop 213) = [bodySum ((bytes.drop 1).take 212)] ↔
      (wordAt bytes 213).toNat = (((bytes.drop 1).take 212).map BitVec.toNat).sum % 65536 := by
    have one : wordsOf (bytes.drop 213) = [(wordAt bytes 213).toNat] := by
      refine List.ext_getElem? fun i => ?_
      cases i with
      | zero => rw [wordsOf_getElem? _ _ (by simp [hlen]), wordAt_drop]; rfl
      | succ i => rw [List.getElem?_eq_none (by simp [wordsOf_length, hlen]), List.getElem?_eq_none (by simp)]
    rw [one, List.singleton_inj, bodySum]
  have values : (allSettings.zip (wordsOf ((bytes.drop 1).take 212))).all (fun p => p.1.domain.holds p.2) = true ↔
      ∀ (i : Nat) (x : Setting), allSettings[i]? = some x → x.domain.holds (wordAt bytes (1 + 2 * i)).toNat = true := by
    rw [List.all_eq_true]
    refine ⟨fun h i x hi => h (x, _) ((mem_imageValues hlen x _).2 ⟨i, hi, rfl⟩), ?_⟩
    rintro h ⟨x, v⟩ hp
    obtain ⟨i, hi, rfl⟩ := (mem_imageValues hlen x v).1 hp
    exact h i x hi
  have own : ((allSettings.zip (wordsOf ((bytes.drop 1).take 212))).map Prod.fst).Nodup := by
    rw [List.map_fst_zip (by simp [wordsOf_length, hlen, allSettings_length])]
    exact allSettings_nodup
  unfold settingsOfImage
  dsimp only
  split
  next hc =>
    obtain ⟨-, hformat, hsum, hall⟩ := hc
    have hvalues := values.1 hall
    have installed {i : Nat} {x : Setting} (hi : allSettings[i]? = some x) :=
      Settings.get_foldl_set own (List.all_eq_true.1 hall) ((mem_imageValues hlen x _).2 ⟨i, hi, rfl⟩) Settings.defaults
    rw [Option.some.injEq]
    constructor
    · rintro rfl
      exact ⟨format.1 hformat, sum.1 hsum, fun i x hi => ⟨hvalues i x hi, installed hi⟩⟩
    · rintro ⟨-, -, holds⟩
      refine Settings.ext_get fun x => ?_
      obtain ⟨i, hi⟩ := List.mem_iff_getElem?.1 (Setting.listed x)
      exact (installed hi).trans (holds i x hi).2.symm
  next hc =>
    refine iff_of_false nofun fun ⟨hformat, hsum, holds⟩ => hc ?_
    exact ⟨hlen, format.2 hformat, sum.2 hsum, values.2 fun i x hi => (holds i x hi).1⟩

theorem Settings.body_length (r : Settings) : r.body.length = 212 := by
  simp only [Settings.body, List.length_flatMap, bytesOf_length, List.map_const', List.sum_replicate, allSettings_length]
  rfl

/-- The image of settings has 215 bytes (R195). -/
theorem Settings.image_length (r : Settings) : r.image.length = 215 := by
  simp [Settings.image, r.body_length]

theorem Settings.image_body (r : Settings) : (r.image.drop 1).take 212 = r.body := by
  rw [Settings.image, List.drop_one, List.tail_cons, ← r.body_length, List.take_left]

/-- The body carries each setting at its place. -/
theorem Settings.wordAt_body (r : Settings) {i : Nat} {x : Setting} (hi : allSettings[i]? = some x) :
    (wordAt r.body (2 * i)).toNat = r.get x % 65536 := by
  have field {j : Nat} (hj : j < 2) : byteAt r.body (2 * i + j) = byteAt (bytesOf (r.get x)) j :=
    byteAt_flatMap (fun _ => bytesOf_length _) hi hj
  rw [wordAt, field Nat.one_lt_two, ← Nat.add_zero (2 * i), field Nat.zero_lt_two]
  exact bytes_toNat _

/-- The check follows the body. -/
theorem Settings.wordAt_check (r : Settings) : (wordAt r.image 213).toNat = bodySum r.body := by
  have check : r.image.drop 213 = bytesOf (bodySum r.body) := by
    rw [Settings.image, List.drop_succ_cons, ← r.body_length, List.drop_left]
  rw [← wordAt_drop r.image 213 0, check]
  exact (bytes_toNat _).trans (Nat.mod_eq_of_lt (Nat.mod_lt _ (by decide)))

/-- The image of settings in their ranges holds them (R195). -/
theorem Settings.fits.imageHolds {r : Settings} (h : r.fits) : ImageHolds r.image r := by
  refine ⟨rfl, by rw [r.wordAt_check, r.image_body, bodySum], fun i x hi => ?_⟩
  have value : (wordAt r.image (1 + 2 * i)).toNat = r.get x := by
    rw [← wordAt_imageBody r.image (List.getElem?_eq_some_iff.1 hi).1, r.image_body, r.wordAt_body hi,
      Nat.mod_eq_of_lt (x.domain_lt (h x))]
  rw [value]
  exact ⟨h x, rfl⟩

/-- A load gives the settings of a good image (R192). -/
theorem loadedSettings_iff {read : LoadRead} (h : (Instr.loadEnd read).wellFormed = true) (r : Settings) :
    loadedSettings read = some r ↔ ∃ bytes, read = .image bytes ∧ ImageHolds bytes r := by
  cases read with
  | noAck => exact iff_of_false nofun fun ⟨_, e, _⟩ => by cases e
  | image bytes =>
    have hlen : bytes.length = 215 := by simpa [Instr.wellFormed, Config.imageBytes] using h
    rw [loadedSettings, settingsOfImage_iff hlen]
    exact ⟨fun holds => ⟨bytes, rfl, holds⟩, fun ⟨_, e, holds⟩ => by cases e; exact holds⟩

end Sys2Proof.Machine

namespace Sys2Proof.Machine

/-! ## The end of a load (R193) -/

theorem FlagsRaised.of_ports {s t : State} (h : t.ports = s.ports) : FlagsRaised s t [] := by
  intro p n _
  rw [State.port, State.port, h]
  simp

theorem exec_loadEnd {s : State} (hp : s.porstLow = false) (hop : s.op = .loading) (read : LoadRead) :
    exec (.loadEnd read) s = .next (s.endLoad read) := by
  show execLoadEnd read s = _
  rw [execLoadEnd, powered_next hp, if_pos hop]

/-- A load is over: SETTINGS_DONE, and what the new settings changed is announced (R76, R185, R193). -/
def State.loadOver (s u : State) : State := s.announce ({ u with op := .idle, bus := .idle }.raise .settingsDone)

theorem State.endLoad_some {read : LoadRead} {r : Settings} (h : loadedSettings read = some r) (s : State) :
    s.endLoad read = s.loadOver ({ s.install r with settingsValid := true }.faultEnds .settingsInvalid) := by
  rw [State.endLoad, h]
  rfl

theorem State.endLoad_none {read : LoadRead} (h : loadedSettings read = none) (s : State) :
    s.endLoad read = s.loadOver ({ s.install .defaults with settingsValid := false }.faultOccurs .settingsInvalid) := by
  rw [State.endLoad, h]
  rfl

theorem State.loadOver_raised {s u : State} {l : List (Port × Nat)} (h : FlagsRaised s u l) :
    FlagsRaised s (s.loadOver u) ((.line, 5) :: l ++ holdFlag s (s.loadOver u) ++ fullFlags s (s.loadOver u)) := by
  have hold : holdFlag s (s.loadOver u) = holdFlag s ({ u with op := .idle, bus := .idle }.raise .settingsDone) := by
    rw [holdFlag, State.loadOver, State.announce_lineHold, holdFlag]
  have full : fullFlags s (s.loadOver u) = fullFlags s ({ u with op := .idle, bus := .idle }.raise .settingsDone) := by
    rw [fullFlags, State.loadOver, State.announce_bins, fullFlags]
  rw [hold, full]
  have ended : FlagsRaised s { u with op := .idle, bus := .idle } l := h
  refine ((ended.trans (State.raise_raised _ .settingsDone)).trans (State.announce_raised s _)).congr fun x => ?_
  simp only [Event.bits, List.mem_append, List.mem_cons, List.not_mem_nil, or_false]
  tauto

/-- What the end of a load leaves: these settings installed, and the sheets, orders, ports and pins as they were. -/
structure Loaded (s : State) (r : Settings) (t : State) : Prop where
  ram : t.ram = r
  bins : t.bins = (s.install r).bins
  lines : t.lines = (s.install r).lines
  sheets : SameSheets s t
  orders : SameOrders s t
  pins : SamePins s t

theorem Loaded.of_some {read : LoadRead} {r : Settings} (h : loadedSettings read = some r) (s : State) :
    Loaded s r (s.endLoad read) := by
  rw [State.endLoad_some h]
  constructor <;> simp [State.loadOver, SameSheets, SameReceiver, SameIntake, SameTable, SameOrders, SamePins, State.install]

theorem Loaded.of_none {read : LoadRead} (h : loadedSettings read = none) (s : State) :
    Loaded s .defaults (s.endLoad read) := by
  rw [State.endLoad_none h]
  constructor <;> simp [State.loadOver, SameSheets, SameReceiver, SameIntake, SameTable, SameOrders, SamePins, State.install]

/-- A record of a bin follows new settings where the bin is OFFLINE (R189). -/
theorem Loaded.bin {s t : State} {r : Settings} (h : Loaded s r t) (b : Fin 8) :
    t.bins.get b = if (s.bins.get b).mode = .offline then { s.bins.get b with
      cls := r.binClass.get b, capacity := r.binCapacity.get b, margin := r.binMargin.get b } else s.bins.get b := by
  rw [h.bins]
  exact Oct.get_of _ b

/-- A line is reconfigured where one of its two settings changed (R179, R184). -/
theorem Loaded.line {s t : State} {r : Settings} (h : Loaded s r t) (k : Fin 8) :
    t.lines.get k = if s.ram.lineFunction.get k = r.lineFunction.get k ∧ s.ram.lineInvert.get k = r.lineInvert.get k
      then s.lines.get k
      else { s.lines.get k with
        latch := false, differ := 0
        lapsed := match (s.lines.get k).debounced with
          | some d => if 8 ≤ (s.lines.get k).differ then some (!d) else (s.lines.get k).lapsed
          | none => (s.lines.get k).lapsed
        debounced := if (r.lineFunction.get k).isInput then
          some ((s.lines.get k).pin != r.lineInvert.get k) else none } := by
  rw [h.lines]
  refine (Oct.get_of _ k).trans ?_
  split
  · rfl
  · generalize s.lines.get k = l
    have lapsed : l.changeDue.or l.lapsed = (match l.debounced with
        | some d => if 8 ≤ l.differ then some (!d) else l.lapsed
        | none => l.lapsed) := by
      unfold Line.changeDue Config.debounceMs
      by_cases due : 8 ≤ l.differ <;> cases l.debounced <;> simp [due]
    rw [Line.reconfigure, lapsed]

/-- A good load makes the settings valid and ends SETTINGS_INVALID (R171, R193). -/
theorem State.endLoad_good {read : LoadRead} {r : Settings} (h : loadedSettings read = some r) (s : State) :
    (s.endLoad read).settingsValid = true ∧
      (s.endLoad read).faults = s.faults.set .settingsInvalid { s.faults.get .settingsInvalid with pending := false } ∧
      (s.endLoad read).firstFault = (if anyPending (s.endLoad read).faults then s.firstFault else none) ∧
      FlagsRaised s (s.endLoad read) ((.line, 5) :: holdFlag s (s.endLoad read) ++ fullFlags s (s.endLoad read)) := by
  have faults : (s.endLoad read).faults =
      s.faults.set .settingsInvalid { s.faults.get .settingsInvalid with pending := false } := by
    rw [State.endLoad_some h, State.faultEnds_eq]
    simp [State.loadOver]
  refine ⟨?_, faults, ?_, ?_⟩
  · rw [State.endLoad_some h]
    simp [State.loadOver]
  · rw [faults, State.endLoad_some h, State.loadOver, State.announce_firstFault, State.raise_firstFault,
      State.faultEnds_eq]
    rfl
  · rw [State.endLoad_some h]
    exact State.loadOver_raised (.of_ports (by simp))

/-- A failed load makes them invalid, and SETTINGS_INVALID occurs (R171, R193). -/
theorem State.endLoad_failed {read : LoadRead} (h : loadedSettings read = none) (s : State) :
    (s.endLoad read).settingsValid = false ∧
      (s.endLoad read).faults = (s.faultOccurs .settingsInvalid).faults ∧
      (s.endLoad read).firstFault = (s.faultOccurs .settingsInvalid).firstFault ∧
      FlagsRaised s (s.endLoad read) ((.line, 5) :: (if (s.faults.get .settingsInvalid).pending then [] else [(.line, 6)]) ++
        holdFlag s (s.endLoad read) ++ fullFlags s (s.endLoad read)) := by
  rw [State.endLoad_none h]
  refine ⟨by simp [State.loadOver], by simp [State.loadOver, State.faultOccurs_faults], ?_, State.loadOver_raised ?_⟩
  · simp only [State.loadOver, State.announce_firstFault, State.raise_firstFault, State.faultOccurs_firstFault]
    rw [State.recordFault_congr (s := s) rfl rfl rfl]
    rfl
  · exact (FlagsRaised.of_ports (s := s) rfl).trans (State.faultOccurs_raised _ .settingsInvalid)

/-! ## The end of a store (R195) -/

theorem exec_storeEnd {s : State} (hp : s.porstLow = false) (hop : s.op = .storing) (result : StoreResult) :
    exec (.storeEnd result) s = .next (s.endStore result) := by
  show execStoreEnd result s = _
  rw [execStoreEnd, powered_next hp, if_pos hop]

/-- A store succeeds exactly when its image reads back as it was written. -/
theorem storeGood_iff (r : Settings) (result : StoreResult) : storeGood r result = true ↔ result = .readBack r.image := by
  cases result <;> simp [storeGood]

theorem State.endStore_good {s : State} {result : StoreResult} (h : storeGood s.ram result = true) :
    s.endStore result = { { s with settingsValid := true }.faultEnds .settingsInvalid with
      op := .idle, bus := .idle }.raise .settingsDone := by
  rw [State.endStore, if_pos h]

theorem State.endStore_failed {s : State} {result : StoreResult} (h : storeGood s.ram result = false) :
    s.endStore result = { s.faultOccurs .storeFailed with op := .idle, bus := .idle }.raise .settingsDone := by
  rw [State.endStore, h, if_neg Bool.false_ne_true]

/-- What the end of a store leaves: it ends the operation, and leaves RAM alone. -/
structure Stored (s t : State) : Prop where
  op : t.op = .idle
  bus : t.bus = .idle
  ram : t.ram = s.ram
  bins : t.bins = s.bins
  lines : t.lines = s.lines
  sheets : SameSheets s t
  orders : SameOrders s t
  pins : SamePins s t

theorem Stored.endStore (s : State) (result : StoreResult) : Stored s (s.endStore result) := by
  cases h : storeGood s.ram result with
  | true =>
    rw [State.endStore_good h]
    constructor <;> simp [SameSheets, SameReceiver, SameIntake, SameTable, SameOrders, SamePins]
  | false =>
    rw [State.endStore_failed h]
    constructor <;> simp [SameSheets, SameReceiver, SameIntake, SameTable, SameOrders, SamePins]

/-- A store that reads back makes the settings valid and ends SETTINGS_INVALID (R171, R195). -/
theorem State.endStore_stored {s : State} {result : StoreResult} (h : storeGood s.ram result = true) :
    (s.endStore result).settingsValid = true ∧
      (s.endStore result).faults = s.faults.set .settingsInvalid { s.faults.get .settingsInvalid with pending := false } ∧
      (s.endStore result).firstFault = (if anyPending (s.endStore result).faults then s.firstFault else none) ∧
      FlagsRaised s (s.endStore result) [(.line, 5)] := by
  have faults : (s.endStore result).faults =
      s.faults.set .settingsInvalid { s.faults.get .settingsInvalid with pending := false } := by
    rw [State.endStore_good h, State.faultEnds_eq]
    simp
  rw [faults, State.endStore_good h, State.faultEnds_eq]
  exact ⟨by simp, rfl, by simp, State.raise_raised _ .settingsDone⟩

/-- Any other store is an occurrence of STORE_FAILED (R171, R195). -/
theorem State.endStore_notStored {s : State} {result : StoreResult} (h : storeGood s.ram result = false) :
    (s.endStore result).settingsValid = s.settingsValid ∧
      (s.endStore result).faults = (s.faultOccurs .storeFailed).faults ∧
      (s.endStore result).firstFault = (s.faultOccurs .storeFailed).firstFault ∧
      FlagsRaised s (s.endStore result)
        ((.line, 5) :: if (s.faults.get .storeFailed).pending then [] else [(.line, 6)]) := by
  rw [State.endStore_failed h]
  refine ⟨by simp, by simp, by simp, ?_⟩
  have occurred : FlagsRaised s { s.faultOccurs .storeFailed with op := .idle, bus := .idle } _ :=
    s.faultOccurs_raised .storeFailed
  refine (occurred.trans (State.raise_raised _ .settingsDone)).congr fun x => ?_
  rw [List.mem_append, or_comm]
  simp [Event.bits]

/-- Settles O51: the bus state by state, the two ends of a load, those of a store, and the image of settings in range. -/
theorem loadsAndStoresEnd : Obligations.LoadsAndStoresEnd := by
  refine ⟨fun s => ⟨fun h => ?_, fun sent bytes h => ⟨fun hs => ?_, fun hs => ?_⟩, fun index sent h hs hop => ?_,
    fun index waited h => State.bus_wait h⟩, fun s hp => ⟨fun hop read wf => ?_, fun hop result good hgood => ?_,
    fun fits => ⟨s.ram.image_length, (settingsOfImage_iff s.ram.image_length _).2 (Settings.fits.imageHolds fits)⟩⟩⟩
  · simp [State.busNext, State.takeInput, State.busAck, State.busData, h, Bus.next]
  · obtain ⟨next, acked, nacked⟩ := State.bus_readHead h hs
    exact ⟨next, acked, fun hop => nacked.trans (State.nack_loading hop), fun hop => nacked.trans (State.nack_storing hop)⟩
  · obtain ⟨next, data⟩ := State.bus_read h hs
    refine ⟨next, fun b => ⟨fun more => (data b).trans (if_pos more), fun last hop => ?_, fun last hop => ?_⟩⟩
    · exact (data b).trans ((if_neg (by omega)).trans (State.imageRead_loading hop _))
    · exact (data b).trans ((if_neg (by omega)).trans (State.imageRead_storing hop _))
  · obtain ⟨next, acked, nacked⟩ := State.bus_write h hs
    exact ⟨next, acked, nacked.trans (State.nack_storing hop)⟩
  · intro good r hr
    have loaded (r' : Settings) : good r' ↔ loadedSettings read = some r' := (loadedSettings_iff wf r').symm
    have idle : (s.endLoad read).op = .idle ∧ (s.endLoad read).bus = .idle := by simp [State.endLoad]
    refine ⟨s.endLoad read, exec_loadEnd hp hop read, ?_⟩
    rcases hr with hr | ⟨hr, rfl⟩
    · have read_r := (loaded r).1 hr
      have kept := Loaded.of_some read_r s
      exact ⟨kept.ram, idle.1, idle.2, fun _ => s.endLoad_good read_r, fun h => absurd hr (h r), kept.bin, kept.line,
        kept.sheets, kept.orders, (WithinBlock.endLoad s read).ports, kept.pins⟩
    · have read_none : loadedSettings read = none :=
        Option.eq_none_iff_forall_ne_some.2 fun r' h => hr r' ((loaded r').2 h)
      have kept := Loaded.of_none read_none s
      exact ⟨kept.ram, idle.1, idle.2, fun h => absurd h (hr _), fun _ => s.endLoad_failed read_none, kept.bin, kept.line,
        kept.sheets, kept.orders, (WithinBlock.endLoad s read).ports, kept.pins⟩
  · have same : storeGood s.ram result = good := Bool.eq_iff_iff.2 ((storeGood_iff _ _).trans hgood.symm)
    have kept := Stored.endStore s result
    refine ⟨s.endStore result, exec_storeEnd hp hop result, kept.op, kept.bus, kept.ram, ?_, fun h => ?_, fun h => ?_,
      kept.bins, kept.lines, kept.sheets, kept.orders, (WithinBlock.endStore s result).ports, kept.pins⟩
    · cases good with
      | true => rw [(State.endStore_stored same).1, Bool.or_true]
      | false => rw [(State.endStore_notStored same).1, Bool.or_false]
    · exact (State.endStore_stored (same.trans h)).2
    · exact (State.endStore_notStored (same.trans h)).2

end Sys2Proof.Machine

namespace Sys2Proof.Machine

/-! ## An occurrence of a fault kind (R171, R172) -/

/-- FAULT_RAISED is bit 6 of the L port's event flags (Table 8-1). -/
theorem State.raise_faultRaised_port (s : State) (p : Port) :
    (s.raise .faultRaised).port p =
      if p = .line then { s.port p with flags := (s.port p).flags ||| 0x0040 } else s.port p :=
  s.setFlag_port (.line, 6) p

/-- A kind that is pending already is counted, and nothing more (R171). -/
theorem State.faultOccurs_again {s : State} {k : FaultKind} (h : (s.faults.get k).pending = true) :
    s.faultOccurs k = { s with faults := (s.faultOccurs k).faults } := by
  simp [State.faultOccurs, h]

/-- A kind that becomes pending sets FAULT_RAISED (R171). -/
theorem State.faultOccurs_new_port {s : State} {k : FaultKind} (h : (s.faults.get k).pending = false) (p : Port) :
    (s.faultOccurs k).port p =
      if p = .line then { s.port p with flags := (s.port p).flags ||| 0x0040 } else s.port p := by
  simp only [State.faultOccurs, h, Bool.false_eq_true, if_false]
  exact State.raise_faultRaised_port _ p

theorem State.recordFault_first {s : State} (h : ∀ j, (s.faults.get j).pending = false) (k : FaultKind) :
    s.recordFault k = some { kind := k, sheet := s.sheetCounter - 1, later := 0 } := by
  have none_pending : ¬ anyPending s.faults = true := by simp [h]
  exact if_neg none_pending

theorem State.recordFault_later {s : State} (h : anyPending s.faults = true) (k : FaultKind) {r : FirstFault}
    (hr : s.firstFault = some r) : s.recordFault k = some { r with later := min 255 (r.later + 1) } := by
  simp only [State.recordFault, if_pos h, hr, Option.map_some, satSucc, Config.faultCountMax]

/-- Settles O54: the kind was pending, or it becomes so, and then as the first or as a later one. -/
theorem faultOccurrencesAreRecorded : Obligations.FaultOccurrencesAreRecorded := by
  intro s k hf
  refine ⟨?_, fun j hj => ?_, s.faultOccurs_faults_eq k, fun again => ?_, fun new => ?_⟩
  · rw [State.faultOccurs_faults, PerFault.get_set_self]
  · rw [State.faultOccurs_faults, PerFault.get_set_ne _ _ hj]
  · rw [State.faultOccurs_again again]
    exact ⟨rfl, rfl⟩
  · have record : (s.faultOccurs k).firstFault = s.recordFault k := by simp [State.faultOccurs_firstFault, new]
    rw [record]
    refine ⟨State.faultOccurs_new_port new, fun first => State.recordFault_first first k, fun r hr => ?_⟩
    have pending : anyPending s.faults = true := by
      obtain ⟨⟨stands, -⟩, -⟩ := (faultInv_iff s).1 hf
      rw [← stands, hr]
      rfl
    exact State.recordFault_later pending k hr

/-! ## READ_FAULTS (R174, Table 8-4) -/

theorem FaultKind.latched_iff (k : FaultKind) :
    k.latched = true ↔ k = .storeFailed ∨ k = .syncLost ∨ k = .outOfOrder := by
  cases k <;> decide

/-- What READ_FAULTS leaves of a kind, by the four conditions of R174. -/
theorem FaultEntry.cleared_eq (e : FaultEntry) (k : FaultKind) (named : Bool) :
    e.cleared k named = if named = false then e
      else if k = .storeFailed ∨ k = .syncLost ∨ k = .outOfOrder ∨ e.pending = false then { pending := false, count := 0 }
      else e := by
  have goes : (k.latched || !e.pending) = true ↔
      (k = .storeFailed ∨ k = .syncLost ∨ k = .outOfOrder ∨ e.pending = false) := by
    rw [Bool.or_eq_true, FaultKind.latched_iff, Bool.not_eq_true']
    tauto
  simp only [FaultEntry.cleared, Bool.not_eq_true', goes]

/-- READ_FAULTS touches the fault state alone: each kind, and with none pending the first-fault record. -/
theorem State.clearFaults_eq (s : State) (clear : Word) :
    let faults := PerFault.of fun k => (s.faults.get k).cleared k (clear.getLsbD k.code)
    s.clearFaults clear = { s with faults := faults, firstFault := if anyPending faults then s.firstFault else none } := by
  simp only [State.clearFaults, State.settleFirstFault]
  split <;> rfl

/-- The clearing does not read the frame's port. -/
theorem State.clearFaults_acceptFrame (s : State) (p : Port) (clear : Word) :
    (s.acceptFrame p).clearFaults clear = (s.clearFaults clear).acceptFrame p := by
  rw [State.clearFaults_eq, State.clearFaults_eq]
  rfl

theorem FaultKind.code_lt (k : FaultKind) : k.code < 5 := by cases k <;> decide

/-- READ_FAULTS' answer in its bytes (Table 8-4). -/
theorem State.faultPayload_read (s : State) :
    s.faultPayload.length = 10 ∧
    (∀ k : FaultKind, (byteAt s.faultPayload 0).getLsbD k.code = (s.faults.get k).pending ∧
      (byteAt s.faultPayload (1 + k.code)).toNat = (s.faults.get k).count % 256) ∧
    match s.firstFault with
    | some r => (byteAt s.faultPayload 6).toNat = r.kind.code ∧ wordAt s.faultPayload 7 = r.sheet ∧
        (byteAt s.faultPayload 9).toNat = r.later % 256
    | none => byteAt s.faultPayload 6 = 0xFF ∧ wordAt s.faultPayload 7 = 0 ∧ byteAt s.faultPayload 9 = 0 := by
  refine ⟨?_, fun k => ⟨?_, ?_⟩, ?_⟩
  · rcases h : s.firstFault with _ | r <;> simp [State.faultPayload, h, faultKinds]
  · refine (flagByte_getLsbD _ (by have := k.code_lt; omega)).trans ?_
    cases k <;> rfl
  · cases k <;> exact byteOf_toNat _
  · rcases h : s.firstFault with _ | r <;> simp only [State.faultPayload, h]
    · exact ⟨rfl, (by decide : (0 : Byte) ++ (0 : Byte) = (0 : Word)), rfl⟩
    · have code := r.kind.code_lt
      exact ⟨(byteOf_toNat _).trans (Nat.mod_eq_of_lt (by omega)), wordBytes_append _, byteOf_toNat _⟩

/-- Settles O34: the answer is that of the state as it stood, the effect that of the clearing. -/
theorem readFaultsAnswersAndClears : Obligations.ReadFaultsAnswersAndClears := by
  intro s tag clear h
  have decision : ((s.acceptFrame .line).clearFaults clear, some (Reply.ok (s.acceptFrame .line).faultPayload)) =
      ((s.clearFaults clear).acceptFrame .line, some (Reply.ok s.faultPayload)) := by
    rw [State.clearFaults_acceptFrame]
    rfl
  refine ⟨(s.clearFaults clear).replied .line tag .ok s.faultPayload, s.faultPayload,
    station_acts h (Reply.ok s.faultPayload) decision, ?_, fun k => ?_, s.clearFaults_firstFault clear, s.faultPayload_read⟩
  · rw [State.clearFaults_eq]
    rfl
  · exact (s.clearFaults_get clear k).trans (FaultEntry.cleared_eq _ k _)

end Sys2Proof.Machine

namespace Sys2Proof.Machine

/-! ## READ_LINES (R183, Table 9-2) -/

/-- What READ_LINES leaves of a line: all but the latch, where it is named. -/
theorem State.clearLatches_get (s : State) (clear : Byte) (k : Fin 8) :
    (s.clearLatches clear).lines.get k =
      { s.lines.get k with latch := (s.lines.get k).latch && !clear.getLsbD k.val } := Oct.get_of _ k

/-- A byte of levels shows 1 at the lines whose level is active: an unknown or absent level shows 0 (Table 9-2). -/
theorem levelByte_getLsbD (level : Fin 8 → Option Bool) (k : Fin 8) :
    (flagByte (eight.map fun i => (level i).getD false)).getLsbD k.val = true ↔ level k = some true := by
  rw [flagByte_eight]
  rcases level k with _ | b <;> simp

/-- READ_LINES' answer in its bytes (Table 9-2). -/
theorem State.linePayload_read (s : State) (k : Fin 8) :
    ((byteAt s.linePayload 0).getLsbD k.val = true ↔ (s.lines.get k).debounced = some true) ∧
    (byteAt s.linePayload 1).getLsbD k.val = (s.lines.get k).latch ∧
    ((byteAt s.linePayload 2).getLsbD k.val = true ↔ s.outputLevel k = some true) :=
  ⟨levelByte_getLsbD (fun i => (s.lines.get i).debounced) k, flagByte_eight (fun i => (s.lines.get i).latch) k,
    levelByte_getLsbD s.outputLevel k⟩

/-- Settles O35: the answer is that of the state as it stood, the effect that of the clearing; neither reads the
port that takes the frame. -/
theorem readLinesAnswersAndClears : Obligations.ReadLinesAnswersAndClears := by
  intro s tag clear h
  have decision : ((s.acceptFrame .line).clearLatches clear, some (Reply.ok (s.acceptFrame .line).linePayload)) =
      ((s.clearLatches clear).acceptFrame .line, some (Reply.ok s.linePayload)) := rfl
  exact ⟨(s.clearLatches clear).replied .line tag .ok s.linePayload, s.linePayload,
    station_acts h (Reply.ok s.linePayload) decision, rfl, rfl,
    fun k => ⟨s.clearLatches_get clear k, s.linePayload_read k⟩⟩

end Sys2Proof.Machine

namespace Sys2Proof.Machine

/-! ## The refusals of SET_SETTING, and GET_SETTING (R190, R191) -/

/-- Case 1 of R190, and GET_SETTING's own (R191): a load or a store is running. -/
theorem State.settings_retry {s : State} (h : s.op ≠ .idle) (key : Word) (value : BitVec 32) :
    s.setSetting key value = unchanged s (Reply.bare .retry) ∧ s.getSetting key = Reply.bare .retry :=
  have busy := (settingsBusy_iff s).2 h
  ⟨if_pos busy, if_pos busy⟩

theorem settingsBusy_eq_false {s : State} (h : s.op = .idle) : s.settingsBusy = false :=
  Bool.eq_false_iff.2 fun busy => (settingsBusy_iff s).1 busy h

theorem settingOfKey_none {key : Nat} (h : ∀ x : Setting, x.key ≠ key) : settingOfKey key = none :=
  List.find?_eq_none.2 fun x _ => by simpa using h x

/-- Case 2 of R190, and GET_SETTING's own (R191): no setting has the key. -/
theorem State.settings_unknown {s : State} (h : s.op = .idle) {key : Word} (hkey : ∀ x : Setting, x.key ≠ key.toNat)
    (value : BitVec 32) :
    s.setSetting key value = unchanged s (Reply.bare .badArgument) ∧ s.getSetting key = Reply.bare .badArgument := by
  unfold State.setSetting State.getSetting
  rw [settingsBusy_eq_false h, settingOfKey_none hkey]
  exact ⟨rfl, rfl⟩

/-- A key that is a setting's leads to that setting: it is written as cases 3 to 6 of R190 say, or read (R191). -/
theorem State.settings_known {s : State} (h : s.op = .idle) {x : Setting} {key : Word} (hkey : x.key = key.toNat)
    (value : BitVec 32) :
    s.setSetting key value = s.writeSetting x key value.toNat ∧
    s.getSetting key = Reply.ok (settingPayload key (s.ram.get x)) := by
  unfold State.setSetting State.getSetting
  rw [settingsBusy_eq_false h, ← hkey, settingOfKey_key]
  exact ⟨rfl, rfl⟩

/-- The closed gates of R190, case 3. -/
theorem State.mayWrite_eq_false_iff (s : State) (x : Setting) : s.mayWrite x = false ↔
    (x.kind = .grading ∧ s.quiet = false) ∨ ∃ b, x.kind = .bin b ∧ (s.bins.get b).mode ≠ .offline := by
  rw [← Bool.not_eq_true, State.mayWrite_iff, not_and_or]
  simp

theorem State.writeSetting_closed {s : State} {x : Setting} (h : s.mayWrite x = false) (key : Word) (v : Nat) :
    s.writeSetting x key v = unchanged s (Reply.bare .refused) := by
  rw [State.writeSetting, h]
  rfl

/-- A value outside a code set is not taken (R190, case 4). -/
theorem Domain.take_codes_none {cs : List Nat} {n : Nat} (h : n ∉ cs) : (Domain.codes cs).take n = none :=
  if_neg fun hc => h (List.contains_iff_mem.1 hc)

theorem State.writeSetting_not_taken {s : State} {x : Setting} {v : Nat} (gate : s.mayWrite x = true)
    (h : x.domain.take v = none) (key : Word) : s.writeSetting x key v = unchanged s (Reply.bare .badArgument) := by
  rw [State.writeSetting, gate, h]
  rfl

/-- Settles O31: R190's cases in their order; each decision leaves the block as it stood. -/
theorem settingsAreRefusedOrRead : Obligations.SettingsAreRefusedOrRead := by
  intro s tag key value h
  have set_answers {r : Reply} (hr : (s.acceptFrame .line).setSetting key value = unchanged (s.acceptFrame .line) r) :
      exec (.setSetting .line tag key value) s = .next (s.replied .line tag r.code r.payload) := station_answers h r hr
  have get_answers {r : Reply} (hr : (s.acceptFrame .line).getSetting key = r) :
      exec (.getSetting .line tag key) s = .next (s.replied .line tag r.code r.payload) :=
    station_answers h r (congrArg (unchanged (s.acceptFrame .line)) hr)
  refine ⟨fun hop => ?_, fun hop hkey => ?_, fun hop x hkey => ?_⟩
  · obtain ⟨write, read⟩ := State.settings_retry (s := s.acceptFrame .line) hop key value
    exact ⟨set_answers write, get_answers read⟩
  · obtain ⟨write, read⟩ := State.settings_unknown (s := s.acceptFrame .line) hop hkey value
    exact ⟨set_answers write, get_answers read⟩
  · obtain ⟨write, read⟩ := State.settings_known (s := s.acceptFrame .line) hop hkey value
    have gate := (s.acceptFrame .line).mayWrite_eq_false_iff x
    refine ⟨?_, fun closed => ?_, fun opened cs hd hn => ?_⟩
    · rw [← bytesOf_eq]
      exact get_answers read
    · exact set_answers (write.trans (State.writeSetting_closed (gate.2 closed) _ _))
    · have may : (s.acceptFrame .line).mayWrite x = true := Bool.of_not_eq_false fun hc => opened (gate.1 hc)
      exact set_answers (write.trans (State.writeSetting_not_taken may (hd ▸ Domain.take_codes_none hn) _))

end Sys2Proof.Machine
